-- ==== Sys2Proof/Word.lean ====
section
/-! DEFINITION. The widths of 00_scope.md rules R8 to R13: bytes, words, register and key indexes, addresses. -/

namespace Sys2Proof

/-- An 8-bit value: a general register, a timer, a memory byte (rules R9, R12, R70). -/
abbrev Byte := BitVec 8

/-- A 16-bit value: I, PC, a stack entry, an instruction word (rules R9, R10, R110). -/
abbrev Word := BitVec 16

/-- The index of a general register V0 to VF (rules R30, R115). -/
abbrev Reg := Fin 16

/-- The index of a key (rule R13). -/
abbrev Key := Fin 16

/-- An address of memory, 0x000 to 0xFFF (rules R8, R84): no value of this type lies outside. -/
abbrev Addr := Fin 4096

/-- VF, the register that also takes the flags (rule R32). -/
abbrev Reg.vf : Reg := 15

/-- V0, the register BNNN adds (rule R200). -/
abbrev Reg.v0 : Reg := 0

/-- `zext_16` of rule R21: an 8-bit or 12-bit value widened with zeros. -/
abbrev zext16 {w : Nat} (b : BitVec w) : Word := b.setWidth 16

end Sys2Proof
end

