-- ==== Sys2Proof/Syntax.lean ====
section
/-! DEFINITION. The 34 instructions of 30_encoding.md rule R113, one constructor per row of the opcode table. -/

namespace Sys2Proof

/-- One constructor per row of spec/opcode_table.json, its fields those of rule R111: `x`, `y` register indexes,
`nn` a byte, `nnn` a 12-bit address, `n` a 4-bit count. 8XY6 and 8XYE keep the `y` they ignore (rule R117), so that
an instruction and its word determine each other. -/
inductive Instr where
  /-- 00E0 CLS (R170) -/
  | cls
  /-- 00EE RET (R192) -/
  | ret
  /-- 1NNN JP nnn (R193) -/
  | jp (nnn : BitVec 12)
  /-- 2NNN CALL nnn (R194) -/
  | call (nnn : BitVec 12)
  /-- 3XNN SE Vx, nn (R196) -/
  | seImm (x : Reg) (nn : Byte)
  /-- 4XNN SNE Vx, nn (R197) -/
  | sneImm (x : Reg) (nn : Byte)
  /-- 5XY0 SE Vx, Vy (R198) -/
  | seReg (x y : Reg)
  /-- 6XNN LD Vx, nn (R220) -/
  | ldImm (x : Reg) (nn : Byte)
  /-- 7XNN ADD Vx, nn (R221) -/
  | addImm (x : Reg) (nn : Byte)
  /-- 8XY0 LD Vx, Vy (R222) -/
  | ldReg (x y : Reg)
  /-- 8XY1 OR Vx, Vy (R223) -/
  | orReg (x y : Reg)
  /-- 8XY2 AND Vx, Vy (R224) -/
  | andReg (x y : Reg)
  /-- 8XY3 XOR Vx, Vy (R225) -/
  | xorReg (x y : Reg)
  /-- 8XY4 ADD Vx, Vy (R226) -/
  | addReg (x y : Reg)
  /-- 8XY5 SUB Vx, Vy (R227) -/
  | subReg (x y : Reg)
  /-- 8XY6 SHR Vx, Vy (R228) -/
  | shr (x y : Reg)
  /-- 8XY7 SUBN Vx, Vy (R229) -/
  | subnReg (x y : Reg)
  /-- 8XYE SHL Vx, Vy (R230) -/
  | shl (x y : Reg)
  /-- 9XY0 SNE Vx, Vy (R199) -/
  | sneReg (x y : Reg)
  /-- ANNN LD I, nnn (R260) -/
  | ldI (nnn : BitVec 12)
  /-- BNNN JP V0, nnn (R200) -/
  | jpV0 (nnn : BitVec 12)
  /-- CXNN RND Vx, nn (R231) -/
  | rnd (x : Reg) (nn : Byte)
  /-- DXYN DRW Vx, Vy, n (R173) -/
  | drw (x y : Reg) (n : BitVec 4)
  /-- EX9E SKP Vx (R290) -/
  | skp (x : Reg)
  /-- EXA1 SKNP Vx (R291) -/
  | sknp (x : Reg)
  /-- FX07 LD Vx, DT (R292) -/
  | ldVxDT (x : Reg)
  /-- FX0A LD Vx, K (R293) -/
  | ldVxK (x : Reg)
  /-- FX15 LD DT, Vx (R294) -/
  | ldDTVx (x : Reg)
  /-- FX18 LD ST, Vx (R295) -/
  | ldSTVx (x : Reg)
  /-- FX1E ADD I, Vx (R261) -/
  | addI (x : Reg)
  /-- FX29 LD F, Vx (R262) -/
  | ldF (x : Reg)
  /-- FX33 LD B, Vx (R263) -/
  | ldB (x : Reg)
  /-- FX55 LD [I], Vx (R264) -/
  | storeRegs (x : Reg)
  /-- FX65 LD Vx, [I] (R265) -/
  | loadRegs (x : Reg)
  deriving DecidableEq, Repr

end Sys2Proof
end

