-- ==== Sys2Proof/Decode.lean ====
section
/-! DEFINITION. Decoding by the dispatch of 30_encoding.md rule R114, decoding of bytes, and the encoder. -/

namespace Sys2Proof

/-- Why no instruction is decoded. -/
inductive DecodeError where
  /-- The word selects no row of the opcode map (rule R118). -/
  | unmapped (op : Word)
  /-- Fewer than the two bytes of an instruction word (rule R110). -/
  | truncated
  deriving DecidableEq, Repr

/-- `N3`, the instruction class (rule R111). -/
def fieldClass (op : Word) : BitVec 4 := op.extractLsb' 12 4

/-- `x = N2` (rule R111). -/
def fieldX (op : Word) : Reg := (op.extractLsb' 8 4).toFin

/-- `y = N1` (rule R111). -/
def fieldY (op : Word) : Reg := (op.extractLsb' 4 4).toFin

/-- `n = N0` (rule R111). -/
def fieldN (op : Word) : BitVec 4 := op.extractLsb' 0 4

/-- `nn = N1N0` (rule R111). -/
def fieldNN (op : Word) : Byte := op.extractLsb' 0 8

/-- `nnn = N2N1N0` (rule R111). -/
def fieldNNN (op : Word) : BitVec 12 := op.extractLsb' 0 12

/-- Class 0x0 is dispatched on the whole word (rule R114). -/
def decodeClass0 (op : Word) : Except DecodeError Instr :=
  if op = 0x00E0 then .ok .cls else if op = 0x00EE then .ok .ret else .error (.unmapped op)

/-- Class 0x8 is dispatched on `n` (rule R114). -/
def decodeClass8 (op : Word) : Except DecodeError Instr :=
  let x := fieldX op
  let y := fieldY op
  let n := fieldN op
  if n = 0x0 then .ok (.ldReg x y)
  else if n = 0x1 then .ok (.orReg x y)
  else if n = 0x2 then .ok (.andReg x y)
  else if n = 0x3 then .ok (.xorReg x y)
  else if n = 0x4 then .ok (.addReg x y)
  else if n = 0x5 then .ok (.subReg x y)
  else if n = 0x6 then .ok (.shr x y)
  else if n = 0x7 then .ok (.subnReg x y)
  else if n = 0xE then .ok (.shl x y)
  else .error (.unmapped op)

/-- Class 0xE is dispatched on `nn` (rule R114). -/
def decodeClassE (op : Word) : Except DecodeError Instr :=
  let x := fieldX op
  let nn := fieldNN op
  if nn = 0x9E then .ok (.skp x)
  else if nn = 0xA1 then .ok (.sknp x)
  else .error (.unmapped op)

/-- Class 0xF is dispatched on `nn` (rule R114). -/
def decodeClassF (op : Word) : Except DecodeError Instr :=
  let x := fieldX op
  let nn := fieldNN op
  if nn = 0x07 then .ok (.ldVxDT x)
  else if nn = 0x0A then .ok (.ldVxK x)
  else if nn = 0x15 then .ok (.ldDTVx x)
  else if nn = 0x18 then .ok (.ldSTVx x)
  else if nn = 0x1E then .ok (.addI x)
  else if nn = 0x29 then .ok (.ldF x)
  else if nn = 0x33 then .ok (.ldB x)
  else if nn = 0x55 then .ok (.storeRegs x)
  else if nn = 0x65 then .ok (.loadRegs x)
  else .error (.unmapped op)

/-- Decoding of a word, first on `N3` and then on the secondary field (rules R113, R114, R118). Classes 0x5 and 0x9
require `n = 0` as well. It reads only the word (40_cycle.md rule R146). -/
def decode (op : Word) : Except DecodeError Instr :=
  let cls := fieldClass op
  if cls = 0x0 then decodeClass0 op
  else if cls = 0x1 then .ok (.jp (fieldNNN op))
  else if cls = 0x2 then .ok (.call (fieldNNN op))
  else if cls = 0x3 then .ok (.seImm (fieldX op) (fieldNN op))
  else if cls = 0x4 then .ok (.sneImm (fieldX op) (fieldNN op))
  else if cls = 0x5 then if fieldN op = 0x0 then .ok (.seReg (fieldX op) (fieldY op)) else .error (.unmapped op)
  else if cls = 0x6 then .ok (.ldImm (fieldX op) (fieldNN op))
  else if cls = 0x7 then .ok (.addImm (fieldX op) (fieldNN op))
  else if cls = 0x8 then decodeClass8 op
  else if cls = 0x9 then if fieldN op = 0x0 then .ok (.sneReg (fieldX op) (fieldY op)) else .error (.unmapped op)
  else if cls = 0xA then .ok (.ldI (fieldNNN op))
  else if cls = 0xB then .ok (.jpV0 (fieldNNN op))
  else if cls = 0xC then .ok (.rnd (fieldX op) (fieldNN op))
  else if cls = 0xD then .ok (.drw (fieldX op) (fieldY op) (fieldN op))
  else if cls = 0xE then decodeClassE op
  else decodeClassF op

/-- The word of two bytes, the first one (the lower address) the high byte (20_memory.md rule R81). -/
def wordOfBytes (hi lo : Byte) : Word := hi ++ lo

/-- Decoding of a byte stream: one instruction takes exactly two bytes (rule R110). Answers the instruction and the
bytes after it. -/
def decodeBytes : List Byte → Except DecodeError (Instr × List Byte)
  | hi :: lo :: rest =>
    match decode (wordOfBytes hi lo) with
    | .ok i => .ok (i, rest)
    | .error e => .error e
  | _ => .error .truncated

/-! The encoder: the formats of rule R112 with the field values put in (rule R120). -/

/-- Format A, `cNNN`. -/
def wordA (c : BitVec 4) (nnn : BitVec 12) : Word := c ++ nnn

/-- Format RI, `cXNN`; format R, `cXff`, is the same with a fixed byte. -/
def wordRI (c : BitVec 4) (x : Reg) (nn : Byte) : Word := c ++ (BitVec.ofFin x : BitVec 4) ++ nn

/-- Format RRN, `cXYN`; format RR, `cXYf`, is the same with a fixed nibble. -/
def wordRRN (c : BitVec 4) (x y : Reg) (n : BitVec 4) : Word :=
  c ++ (BitVec.ofFin x : BitVec 4) ++ (BitVec.ofFin y : BitVec 4) ++ n

/-- The word of an instruction (rules R112, R113). -/
def encode : Instr → Word
  | .cls => 0x00E0
  | .ret => 0x00EE
  | .jp nnn => wordA 0x1 nnn
  | .call nnn => wordA 0x2 nnn
  | .seImm x nn => wordRI 0x3 x nn
  | .sneImm x nn => wordRI 0x4 x nn
  | .seReg x y => wordRRN 0x5 x y 0x0
  | .ldImm x nn => wordRI 0x6 x nn
  | .addImm x nn => wordRI 0x7 x nn
  | .ldReg x y => wordRRN 0x8 x y 0x0
  | .orReg x y => wordRRN 0x8 x y 0x1
  | .andReg x y => wordRRN 0x8 x y 0x2
  | .xorReg x y => wordRRN 0x8 x y 0x3
  | .addReg x y => wordRRN 0x8 x y 0x4
  | .subReg x y => wordRRN 0x8 x y 0x5
  | .shr x y => wordRRN 0x8 x y 0x6
  | .subnReg x y => wordRRN 0x8 x y 0x7
  | .shl x y => wordRRN 0x8 x y 0xE
  | .sneReg x y => wordRRN 0x9 x y 0x0
  | .ldI nnn => wordA 0xA nnn
  | .jpV0 nnn => wordA 0xB nnn
  | .rnd x nn => wordRI 0xC x nn
  | .drw x y n => wordRRN 0xD x y n
  | .skp x => wordRI 0xE x 0x9E
  | .sknp x => wordRI 0xE x 0xA1
  | .ldVxDT x => wordRI 0xF x 0x07
  | .ldVxK x => wordRI 0xF x 0x0A
  | .ldDTVx x => wordRI 0xF x 0x15
  | .ldSTVx x => wordRI 0xF x 0x18
  | .addI x => wordRI 0xF x 0x1E
  | .ldF x => wordRI 0xF x 0x29
  | .ldB x => wordRI 0xF x 0x33
  | .storeRegs x => wordRI 0xF x 0x55
  | .loadRegs x => wordRI 0xF x 0x65

/-- The high byte of a word, which is stored at the lower address (20_memory.md rule R81). -/
def wordHigh (op : Word) : Byte := op.extractLsb' 8 8

/-- The low byte of a word. -/
def wordLow (op : Word) : Byte := op.extractLsb' 0 8

/-- The bytes of an instruction in memory order, most significant first (rules R81, R120). -/
def encodeBytes (i : Instr) : List Byte := [wordHigh (encode i), wordLow (encode i)]

/-- The word that the opcode table's numbering of an instruction's bits gives: bit 0 is the least significant bit of
the one word an instruction has; bits from `nbits` up are 0. -/
def tableWord (nbits w : Nat) : Word := BitVec.ofNat 16 (w % 2 ^ nbits)

/-- What the decoder reads from an instruction whose bits are `w`, laid out as stored. -/
def decodeTableWord (nbits w : Nat) : Option Instr :=
  match decodeBytes [wordHigh (tableWord nbits w), wordLow (tableWord nbits w)] with
  | .ok (i, _) => some i
  | .error _ => none

end Sys2Proof
end

