-- ==== Sys2Proof/Config.lean ====
section
/-! DEFINITION. What the spec leaves to the implementation and gives no value: constants without a body,
so that nothing proved can rest on a value of theirs. -/

namespace Sys2Proof

/-- The byte the random source supplies at its `n`-th draw (00_scope.md rules R17, R25; 92 D30: a free draw
under no law). A free value: assumption log 3. -/
opaque Config.randomByte : Nat → Byte

/-- FONT_REGION_WRITABLE (00_scope.md rule R16; 92 D15: OPEN). Unsafe to fix, so it has no value here:
assumption log 4. `State.reset` starts with it; a statement over all states covers both values. -/
opaque Config.fontRegionWritable : Bool

end Sys2Proof
end

