-- ==== Sys2Proof/Machine/Font.lean ====
section
/-! DEFINITION. The default FONT_TABLE of 20_memory.md rule R76, which the spec supplies from general knowledge
(PRESUMED, assumption log 5; unsafe for an implementation with other glyphs). -/

namespace Sys2Proof.Machine

/-- FONT_TABLE (00_scope.md rule R15): 80 bytes, five per hex digit, top row first (20_memory.md rule R73). -/
abbrev FontTable := Vector Byte 80

/-- Digits 0 to 7 (rule R76). -/
def fontLow : Vector Byte 40 :=
  #v[0xF0, 0x90, 0x90, 0x90, 0xF0,
     0x20, 0x60, 0x20, 0x20, 0x70,
     0xF0, 0x10, 0xF0, 0x80, 0xF0,
     0xF0, 0x10, 0xF0, 0x10, 0xF0,
     0x90, 0x90, 0xF0, 0x10, 0x10,
     0xF0, 0x80, 0xF0, 0x10, 0xF0,
     0xF0, 0x80, 0xF0, 0x90, 0xF0,
     0xF0, 0x10, 0x20, 0x40, 0x40]

/-- Digits 8 to F (rule R76). -/
def fontHigh : Vector Byte 40 :=
  #v[0xF0, 0x90, 0xF0, 0x90, 0xF0,
     0xF0, 0x90, 0xF0, 0x10, 0xF0,
     0xF0, 0x90, 0xF0, 0x90, 0x90,
     0xE0, 0x90, 0xE0, 0x90, 0xE0,
     0xF0, 0x80, 0x80, 0x80, 0xF0,
     0xE0, 0x90, 0x90, 0x90, 0xE0,
     0xF0, 0x80, 0xF0, 0x80, 0xF0,
     0xF0, 0x80, 0xF0, 0x80, 0x80]

/-- The default FONT_TABLE (rule R76). -/
def defaultFont : FontTable := fontLow ++ fontHigh

end Sys2Proof.Machine
end

