-- ==== Sys2Proof/Machine/State.lean ====
section
/-! DEFINITION. The state as plain data: the block's thirteen elements (10_state.md rule R47), the parameters a model
takes as arguments (rules R15, R16), and the model's own fields. Reset values of rule R49. -/

namespace Sys2Proof.Machine

/-- The framebuffer `FB[c][r]`: 64 columns of 32 one-bit cells (10_state.md rule R41). -/
abbrev Grid := Vector (Vector Bool 32) 64

/-- The cause `HALT` holds: one of the fatal statuses (10_state.md rule R46). -/
inductive Cause where
  /-- 2NNN with SP = 16, at address `a` with word `op` (42_flow.md rule R190). -/
  | stackOverflow (a op : Word)
  /-- 00EE with SP = 0 (42_flow.md rule R191). -/
  | stackUnderflow (a op : Word)
  /-- A fetch with PC above 0x0FFE (40_cycle.md rule R143). -/
  | pcOutOfRange (pc : Word)
  deriving DecidableEq, Repr

/-- The status a cycle returns (60_exceptions.md rule R330). -/
inductive Status where
  /-- No condition met. -/
  | ok
  /-- A cycle during a key wait. -/
  | waiting
  /-- The word `op` at `a` selects no instruction. -/
  | unknownOpcode (a op : Word)
  /-- `ea` is the lowest address from 0x1000 up that the instruction reached: an unbounded sum (00_scope.md rule R21). -/
  | outOfBoundsAccess (a op : Word) (ea : Nat)
  /-- Call with a full stack. -/
  | stackOverflow (a op : Word)
  /-- Return with an empty stack. -/
  | stackUnderflow (a op : Word)
  /-- Fetch beyond memory. -/
  | pcOutOfRange (pc : Word)
  /-- Any cycle after a fatal status, with that status. -/
  | halted (c : Cause)
  deriving DecidableEq, Repr

/-- The whole state of the block, rule R47's thirteen elements and no more: what `snapshot()` copies (rule R56). -/
structure Block where
  /-- `V[0]` to `V[15]` (R30). -/
  v : Vector Byte 16
  /-- The index register `I` (R34). -/
  i : Word
  /-- `PC` (R35). -/
  pc : Word
  /-- `SP`, 0 to 16: the number of occupied entries (R38). -/
  sp : Fin 17
  /-- `S[0]` to `S[15]` (R38). -/
  stack : Vector Word 16
  /-- The delay timer `DT` (R40). -/
  dt : Byte
  /-- The sound timer `ST` (R40). -/
  st : Byte
  /-- `FB` (R41). -/
  fb : Grid
  /-- `K[0]` to `K[15]`, true meaning pressed (R42). -/
  keys : Vector Bool 16
  /-- `M` (R43): the bytes that differ from what reset leaves, addresses strictly rising. -/
  mem : List Host.Cell
  /-- `WAIT`: none is Idle, `some x` is Waiting(x) (R44). -/
  wait : Option Reg
  /-- `LATCH` (R45). -/
  latch : Option Key
  /-- `HALT` (R46). -/
  halt : Option Cause
  deriving DecidableEq, Repr

/-- The parameters of the block (00_scope.md rules R15, R16). They are fixed: no step changes them. -/
structure Params where
  /-- `FONT_TABLE` (R15). -/
  font : FontTable
  /-- `FONT_REGION_WRITABLE` (R16). -/
  fontWritable : Bool
  deriving DecidableEq, Repr

/-- One host operation of the interface (10_state.md rule R50). -/
inductive HostCall where
  /-- `reset()` (70 R380). -/
  | reset
  /-- `loadProgram(bytes)` (70 R383). -/
  | loadProgram (bytes : List Byte)
  /-- `cycle()` (40 R154). -/
  | cycle
  /-- `tick()` (60 R350). -/
  | tick
  /-- `setKey(k, pressed)` (60 R352); `k` above 15 is outside the interface (R353). -/
  | setKey (k : Nat) (pressed : Bool)
  /-- `getFramebuffer()` (R54). -/
  | getFramebuffer
  /-- `isSoundActive()` (R55). -/
  | isSoundActive
  /-- `snapshot()` (R56). -/
  | snapshot
  deriving DecidableEq, Repr

/-- What a host operation returns (10_state.md rules R52 to R56; 70 R383). -/
inductive Result where
  /-- `reset()`, `tick()` and `setKey` return nothing. -/
  | nothing
  /-- `cycle()` returns its status. -/
  | status (st : Status)
  /-- `loadProgram` returned Ok(()). -/
  | loaded
  /-- `loadProgram` returned Err(RomTooLarge). -/
  | romTooLarge
  /-- `getFramebuffer()` returns a copy of FB. -/
  | framebuffer (fb : Grid)
  /-- `isSoundActive()` returns whether ST > 0. -/
  | sound (active : Bool)
  /-- `snapshot()` returns a copy of the block; the parameters say what its unlisted memory bytes hold. -/
  | snapshot (block : Block) (params : Params)
  deriving DecidableEq, Repr

/-- The machine: the block, its parameters, and the model's own three fields (assumption log 1, 2, 3). -/
structure State extends Block where
  /-- The parameters (R15, R16). -/
  params : Params
  /-- The model's own: what the latest operation returned (log 2). -/
  result : Result
  /-- The model's own: how many random bytes were drawn (log 3). -/
  draws : Nat
  /-- The model's own: the host operations still to come, next one first; when none is left the host calls
  `cycle()` (log 1). -/
  schedule : List HostCall
  deriving DecidableEq, Repr

/-- Why the machine would stop with a fault: it never does. Every condition of the block is a status (60_exceptions.md
rules R330, R337), and no address outside memory is ever presented to the bus (20_memory.md rule R84), which the type
`Addr` guarantees. Nobody raises a fault: safe (assumption log 7). -/
inductive Fault where
  deriving DecidableEq, Repr

/-- Why a step is refused. -/
inductive Refusal where
  /-- Raised by `exec` for an instruction without a meaning; no arm does so now. Safe: nothing follows it. -/
  | notModelled (mnemonic : String)
  /-- Raised by the host operation `setKey` with an index above 15, which is outside the interface and which "a model
  refuses" (60_exceptions.md rule R353). Safe: nothing follows it. -/
  | keyIndexOutOfRange (k : Nat)
  deriving DecidableEq, Repr

/-- The block right after `reset()` (10_state.md rule R49): memory lists nothing, so every byte reads as reset
leaves it. -/
def Block.reset : Block where
  v := Vector.replicate 16 0x00
  i := 0x0000
  pc := 0x0200
  sp := 0
  stack := Vector.replicate 16 0x0000
  dt := 0x00
  st := 0x00
  fb := Vector.replicate 64 (Vector.replicate 32 false)
  keys := Vector.replicate 16 false
  mem := []
  wait := none
  latch := none
  halt := none

/-- The parameters a run from reset has: the default font (R76) and an open FONT_REGION_WRITABLE (R16). -/
def Params.initial : Params where
  font := defaultFont
  fontWritable := Config.fontRegionWritable

/-- The machine right after `reset()` (rules R49, R380), with nothing scheduled. -/
def State.reset : State where
  toBlock := Block.reset
  params := Params.initial
  result := .nothing
  draws := 0
  schedule := []

end Sys2Proof.Machine
end

