-- ==== Sys2Proof/Machine/Ops.lean ====
section
/-! DEFINITION. The named operations: memory as a canonical list, the registers, the stack, the framebuffer's cells,
and raising a status, which is all this block has for taking an exception (60_exceptions.md rules R330 to R338). -/

namespace Sys2Proof.Machine

/-! ## Memory as a list of the bytes that differ from the reset image -/

/-- What memory holds where nothing is listed: the contents `reset()` leaves, FONT_TABLE in 0x000-0x04F and zero above
(10_state.md rule R49, 20_memory.md rule R72). -/
def resetImage (font : FontTable) (a : Nat) : Byte := if h : a < 80 then font[a] else 0x00

/-- The listed byte at an address. -/
def memLookup : List Host.Cell → Nat → Option Byte
  | [], _ => none
  | (b, v) :: m, a => if a = b then some v else memLookup m a

/-- The byte at an address: the listed one, else the image's. -/
def memRead (image : Nat → Byte) (m : List Host.Cell) (a : Nat) : Byte := (memLookup m a).getD (image a)

/-- The list without an address. -/
def memErase : List Host.Cell → Nat → List Host.Cell
  | [], _ => []
  | (b, v) :: m, a => if a = b then memErase m a else (b, v) :: memErase m a

/-- The list with a byte at an address, kept in rising order. -/
def memInsert : List Host.Cell → Nat → Byte → List Host.Cell
  | [], a, w => [(a, w)]
  | (b, v) :: m, a, w =>
    if a < b then (a, w) :: (b, v) :: m
    else if a = b then (a, w) :: m
    else (b, v) :: memInsert m a w

/-- `M[a] <- w` on the list: a byte equal to the image's is not listed. -/
def memWrite (image : Nat → Byte) (m : List Host.Cell) (a : Nat) (w : Byte) : List Host.Cell :=
  if w = image a then memErase m a else memInsert m a w

/-- The canonical form above a bound: addresses from `lo` up, strictly rising and inside memory, none listed with the
image's byte. -/
def memWfFrom (image : Nat → Byte) : Nat → List Host.Cell → Bool
  | _, [] => true
  | lo, (b, v) :: m => decide (lo ≤ b) && decide (b < 4096) && decide (v ≠ image b) && memWfFrom image (b + 1) m

/-- The canonical form of memory. -/
def memWf (image : Nat → Byte) (m : List Host.Cell) : Bool := memWfFrom image 0 m

/-- The bytes `bs` at `at_`, `at_ + 1`, … (20_memory.md rule R80); the last byte is put first, which makes no difference
to the result since the addresses differ. -/
def memLoad (image : Nat → Byte) (m : List Host.Cell) : Nat → List Byte → List Host.Cell
  | _, [] => m
  | at_, b :: bs => memWrite image (memLoad image m (at_ + 1) bs) at_ b

/-! ## Memory of a state -/

/-- The reset image of a state's own FONT_TABLE. -/
def State.image (s : State) : Nat → Byte := resetImage s.params.font

/-- `MemRead(a, 1)` (20_memory.md rule R78). -/
def State.readByte (s : State) (a : Addr) : Byte := memRead s.image s.mem a.val

/-- `M[a] <- v` with no regard to the font region: reset and load write so (70 R380, 20 R80). -/
def State.pokeByte (s : State) (a : Addr) (v : Byte) : State := { s with mem := memWrite s.image s.mem a.val v }

/-- Whether an instruction's write at `a` is performed (20_memory.md rule R79). -/
def State.writable (s : State) (a : Addr) : Bool := decide (0x04F < a.val) || s.params.fontWritable

/-- `MemWrite(a, 1, v)`: a write to the protected font region is dropped (20_memory.md rule R79). -/
def State.writeByte (s : State) (a : Addr) (v : Byte) : State := if s.writable a then s.pokeByte a v else s

/-- Bytes to addresses, one `MemWrite` after the other; where there are fewer addresses than bytes the further bytes
are dropped (20_memory.md rules R82, R85). -/
def State.writeBytes (s : State) : List Addr → List Byte → State
  | a :: as, b :: bs => (s.writeByte a b).writeBytes as bs
  | _, _ => s

/-! ## Registers -/

/-- `V[r]` (10_state.md rule R30). -/
def State.reg (s : State) (r : Reg) : Byte := s.v[r.val]

/-- `V[r] <- b`. -/
def State.setReg (s : State) (r : Reg) (b : Byte) : State := { s with v := s.v.set r.val b }

/-- Registers loaded with bytes, one after the other; where there are fewer bytes than registers the further registers
keep their values (20_memory.md rule R85). -/
def State.setRegs (s : State) : List Reg → List Byte → State
  | r :: rs, b :: bs => (s.setReg r b).setRegs rs bs
  | _, _ => s

/-- `VF <- 1 or 0` (10_state.md rule R32). -/
def State.setFlag (s : State) (f : Bool) : State := s.setReg Reg.vf (if f then 1 else 0)

/-- `I <- w` (10_state.md rule R34). -/
def State.setI (s : State) (w : Word) : State := { s with i := w }

/-- `PC <- target` (00_scope.md rule R22). -/
def State.setPc (s : State) (target : Word) : State := { s with pc := target }

/-- `DT <- b` (10_state.md rule R40). -/
def State.setDt (s : State) (b : Byte) : State := { s with dt := b }

/-- `ST <- b` (10_state.md rule R40). -/
def State.setSt (s : State) (b : Byte) : State := { s with st := b }

/-- `K[k]` (10_state.md rule R42). -/
def State.key (s : State) (k : Key) : Bool := s.keys[k.val]

/-- `K[k] <- pressed`. -/
def State.putKey (s : State) (k : Key) (pressed : Bool) : State := { s with keys := s.keys.set k.val pressed }

/-- `WAIT`. -/
def State.setWait (s : State) (w : Option Reg) : State := { s with wait := w }

/-- `LATCH`. -/
def State.setLatch (s : State) (k : Option Key) : State := { s with latch := k }

/-! ## The framebuffer -/

/-- `FB[c][r]` of a grid. -/
def Grid.cell (g : Grid) (c : Fin 64) (r : Fin 32) : Bool := g[c.val][r.val]

/-- The grid with one cell set. -/
def Grid.put (g : Grid) (c : Fin 64) (r : Fin 32) (b : Bool) : Grid := g.set c.val (g[c.val].set r.val b)

/-- The grid with every cell 0 (41_display.md rule R170). -/
def Grid.clear : Grid := Vector.replicate 64 (Vector.replicate 32 false)

/-- `FB[c][r]` (10_state.md rule R41). -/
def State.cell (s : State) (c : Fin 64) (r : Fin 32) : Bool := s.fb.cell c r

/-- `FB <- g`. -/
def State.setFb (s : State) (g : Grid) : State := { s with fb := g }

/-! ## The call stack -/

/-- `S[k]` (10_state.md rule R38). -/
def State.entry (s : State) (k : Fin 16) : Word := s.stack[k.val]

/-- `Push(v)`: none when SP = 16 (42_flow.md rule R190). -/
def State.push (s : State) (v : Word) : Option State :=
  if h : s.sp.val < 16 then
    some { s with stack := s.stack.set s.sp.val v, sp := ⟨s.sp.val + 1, by omega⟩ }
  else none

/-- `Pop()`: none when SP = 0; the entry keeps its value (42_flow.md rule R191). -/
def State.pop (s : State) : Option (Word × State) :=
  if h : 0 < s.sp.val then
    some (s.stack[s.sp.val - 1]'(by omega), { s with sp := ⟨s.sp.val - 1, by omega⟩ })
  else none

/-! ## Statuses: what an operation returns, and raising -/

/-- The operation returns `r`. -/
def State.answer (s : State) (r : Result) : State := { s with result := r }

/-- The cause a fatal status leaves in HALT; none for the others (60_exceptions.md rules R331, R332). -/
def fatalCause : Status → Option Cause
  | .stackOverflow a op => some (.stackOverflow a op)
  | .stackUnderflow a op => some (.stackUnderflow a op)
  | .pcOutOfRange pc => some (.pcOutOfRange pc)
  | .ok => none
  | .waiting => none
  | .unknownOpcode _ _ => none
  | .outOfBoundsAccess _ _ _ => none
  | .halted _ => none

/-- The status code of 60_exceptions.md rule R330. -/
def statusCode : Status → Nat
  | .ok => 0
  | .waiting => 1
  | .unknownOpcode _ _ => 2
  | .outOfBoundsAccess _ _ _ => 3
  | .stackOverflow _ _ => 4
  | .stackUnderflow _ _ => 5
  | .pcOutOfRange _ => 6
  | .halted _ => 7

/-- `raise E(info)` (00_scope.md rule R24): the cycle returns the status, and a fatal one halts the machine
(60_exceptions.md rules R331, R332). No register is saved, nothing is pushed and control goes nowhere (rule R337). -/
def State.raise (s : State) (st : Status) : State :=
  match fatalCause st with
  | some c => { s with result := .status st, halt := some c }
  | none => { s with result := .status st }

/-- The address of the instruction being executed: PC holds `a + 2` then (40_cycle.md rule R145; assumption log 6). -/
def State.instrAddr (s : State) : Word := s.pc - 2

/-! ## The random source and the schedule -/

/-- `draw_rnd()` (00_scope.md rule R25): the next byte, a free value, and the state in which it is taken. -/
def State.drawRandom (s : State) : Byte × State := (Config.randomByte s.draws, { s with draws := s.draws + 1 })

/-- The host operation that comes next: the schedule's first, else `cycle()` (assumption log 1). -/
def State.nextCall (s : State) : HostCall := s.schedule.headD .cycle

/-- The schedule without the operation that is being performed. -/
def State.dropCall (s : State) : State := { s with schedule := s.schedule.tail }

end Sys2Proof.Machine
end

