-- ==== Sys2Proof/Machine/Flags.lean ====
section
/-! DEFINITION. The flag computations of 43_alu.md: each gives the result for Vx and the bit for VF, computed on
unbounded integers and narrowed at the end (00_scope.md rule R21, 43_alu.md rule R232). -/

namespace Sys2Proof.Machine

/-- 8XY4: the sum mod 256, and the carry `sum > 255` (43_alu.md rule R226). -/
def addCarry (vx vy : Byte) : Byte × Bool :=
  let sum := vx.toNat + vy.toNat
  (BitVec.ofNat 8 (sum % 256), decide (sum > 255))

/-- `a - b` mod 256, and no-borrow `a >= b` (43_alu.md rules R227, R229). -/
def subNoBorrow (a b : Byte) : Byte × Bool :=
  (BitVec.ofInt 8 ((a.toNat : Int) - b.toNat), decide (b.toNat ≤ a.toNat))

/-- 8XY6: one bit to the right, and the bit shifted out (43_alu.md rule R228). -/
def shiftRightOut (vx : Byte) : Byte × Bool := (vx >>> 1, vx.getLsbD 0)

/-- 8XYE: one bit to the left, and the bit shifted out (43_alu.md rule R230). -/
def shiftLeftOut (vx : Byte) : Byte × Bool := (vx <<< 1, vx.getLsbD 7)

/-- `Vx` written first and `VF` last, so that with x = 15 the register ends holding the flag (43_alu.md, preamble;
92 D2). -/
def State.setRegFlag (s : State) (x : Reg) (r : Byte × Bool) : State := (s.setReg x r.1).setFlag r.2

end Sys2Proof.Machine
end

