-- ==== Sys2Proof/Machine/Operands.lean ====
section
/-! DEFINITION. The operand forms: immediates, the low nibble of a register, and the one addressing mode, index-relative
with a range truncated at 0xFFF (30_encoding.md rule R116; 44_index_memory.md rule R266; 20_memory.md rule R85). -/

namespace Sys2Proof.Machine

/-- `v & 0x0F` as a key index (45_keys_timers.md rules R290, R291). -/
def lowNibble (v : Byte) : Key := ⟨v.toNat % 16, Nat.mod_lt _ (by decide)⟩

/-- The address of the glyph of a byte's low nibble, `5 * (v & 0x0F)` (44_index_memory.md rule R262, 20_memory.md
rule R73). -/
def glyphAddress (v : Byte) : Word := BitVec.ofNat 16 (5 * (v.toNat % 16))

/-- The decimal digits of a byte, hundreds, tens, ones (44_index_memory.md rule R263). -/
def decimalDigits (v : Byte) : List Byte :=
  [BitVec.ofNat 8 (v.toNat / 100), BitVec.ofNat 8 (v.toNat / 10 % 10), BitVec.ofNat 8 (v.toNat % 10)]

/-- `k = min(count, 0x1000 - I)` of `Clamp` (20_memory.md rule R85). Outside the invariant `I <= 0xFFF` it is 0. -/
def clampCount (i : Word) (count : Nat) : Nat := min count (0x1000 - i.toNat)

/-- The addresses `base`, `base + 1`, …, `count` of them, truncated at 0xFFF: those an access performs (rule R85). -/
def spanFrom : Nat → Nat → List Addr
  | _, 0 => []
  | base, count + 1 => if h : base < 4096 then ⟨base, h⟩ :: spanFrom (base + 1) count else []

/-- The addresses of an access of `count` bytes from `I` up (rules R85, R266). -/
def State.span (s : State) (count : Nat) : List Addr := spanFrom s.i.toNat count

/-- The status part of `Clamp(count)`: OutOfBoundsAccess with the lowest omitted address when the range is truncated
(rule R85). `op` is the word of the instruction. -/
def State.flagClamp (s : State) (op : Word) (count : Nat) : State :=
  let k := clampCount s.i count
  if k < count then s.raise (.outOfBoundsAccess s.instrAddr op (s.i.toNat + k)) else s

/-- V0 to Vx, in rising order (44_index_memory.md rules R264, R265). -/
def regsUpTo (x : Reg) : List Reg := (List.finRange 16).take (x.val + 1)

/-- `Skip()`: PC advances by 2 more, not reduced mod 4096 (42_flow.md rule R195). -/
def State.skip (s : State) : State := s.setPc (s.pc + 2)

/-- Skip when the condition holds (42_flow.md rules R196 to R199; 45_keys_timers.md rules R290, R291). -/
def State.skipIf (s : State) (c : Bool) : State := if c then s.skip else s

end Sys2Proof.Machine
end

