-- ==== Sys2Proof/Machine/Alu.lean ====
section
/-! DEFINITION. 43_alu.md: register arithmetic and logic, and the random byte. Every meaning runs with PC already past
the instruction (40_cycle.md rule R145) and status Ok recorded (rule R154). Operands are read before any write
(00_scope.md rule R26). -/

namespace Sys2Proof.Machine

/-- 6XNN (rule R220). -/
def execLdImm (x : Reg) (nn : Byte) (s : State) : Host.Outcome State Fault Refusal := .next (s.setReg x nn)

/-- 7XNN (rule R221): wraps, VF is no flag here. -/
def execAddImm (x : Reg) (nn : Byte) (s : State) : Host.Outcome State Fault Refusal :=
  .next (s.setReg x (addCarry (s.reg x) nn).1)

/-- 8XY0 (rule R222). -/
def execLdReg (x y : Reg) (s : State) : Host.Outcome State Fault Refusal := .next (s.setReg x (s.reg y))

/-- 8XY1 (rule R223). -/
def execOrReg (x y : Reg) (s : State) : Host.Outcome State Fault Refusal := .next (s.setReg x (s.reg x ||| s.reg y))

/-- 8XY2 (rule R224). -/
def execAndReg (x y : Reg) (s : State) : Host.Outcome State Fault Refusal := .next (s.setReg x (s.reg x &&& s.reg y))

/-- 8XY3 (rule R225). -/
def execXorReg (x y : Reg) (s : State) : Host.Outcome State Fault Refusal := .next (s.setReg x (s.reg x ^^^ s.reg y))

/-- 8XY4 (rule R226). -/
def execAddReg (x y : Reg) (s : State) : Host.Outcome State Fault Refusal :=
  .next (s.setRegFlag x (addCarry (s.reg x) (s.reg y)))

/-- 8XY5 (rule R227). -/
def execSubReg (x y : Reg) (s : State) : Host.Outcome State Fault Refusal :=
  .next (s.setRegFlag x (subNoBorrow (s.reg x) (s.reg y)))

/-- 8XY6 (rule R228): the source is Vx, `y` is ignored (30_encoding.md rule R117). -/
def execShr (x _y : Reg) (s : State) : Host.Outcome State Fault Refusal :=
  .next (s.setRegFlag x (shiftRightOut (s.reg x)))

/-- 8XY7 (rule R229). -/
def execSubnReg (x y : Reg) (s : State) : Host.Outcome State Fault Refusal :=
  .next (s.setRegFlag x (subNoBorrow (s.reg y) (s.reg x)))

/-- 8XYE (rule R230): the source is Vx, `y` is ignored (30_encoding.md rule R117). -/
def execShl (x _y : Reg) (s : State) : Host.Outcome State Fault Refusal :=
  .next (s.setRegFlag x (shiftLeftOut (s.reg x)))

/-- CXNN (rule R231): exactly one byte is drawn, whatever `nn` is. -/
def execRnd (x : Reg) (nn : Byte) (s : State) : Host.Outcome State Fault Refusal :=
  .next (s.drawRandom.2.setReg x (s.drawRandom.1 &&& nn))

end Sys2Proof.Machine
end

