-- ==== Sys2Proof/Machine/Display.lean ====
section
/-! DEFINITION. 41_display.md: clearing and drawing. -/

namespace Sys2Proof.Machine

/-- The column `(x0 + c) mod 64` (rule R171). -/
def drawColumn (x0 : Byte) (c : Nat) : Fin 64 := ⟨(x0.toNat + c) % 64, Nat.mod_lt _ (by decide)⟩

/-- The row `(y0 + r) mod 32` (rule R171). -/
def drawLine (y0 : Byte) (r : Nat) : Fin 32 := ⟨(y0.toNat + r) % 32, Nat.mod_lt _ (by decide)⟩

/-- One sprite bit: a collision if the cell is 1 under a 1 bit, then XOR (rule R171). -/
def drawBit (px : Fin 64) (py : Fin 32) (bit : Bool) (acc : Grid × Bool) : Grid × Bool :=
  (acc.1.put px py (acc.1.cell px py ^^ bit), acc.2 || (bit && acc.1.cell px py))

/-- The columns `c`, `c + 1`, …, `count` of them, of one sprite byte, bit 7 being column 0 (rules R171, R172). -/
def drawColumns (x0 : Byte) (py : Fin 32) (row : Byte) : Nat → Nat → Grid × Bool → Grid × Bool
  | _, 0, acc => acc
  | c, count + 1, acc =>
    drawColumns x0 py row (c + 1) count (drawBit (drawColumn x0 c) py (row.getLsbD (7 - c)) acc)

/-- The sprite rows from row `r` on (rule R171). -/
def drawRows (x0 y0 : Byte) : Nat → List Byte → Grid × Bool → Grid × Bool
  | _, [], acc => acc
  | r, row :: rows, acc => drawRows x0 y0 (r + 1) rows (drawColumns x0 (drawLine y0 r) row 0 8 acc)

/-- `drawSprite(grid, x0, y0, rows)` (rule R171): wraps at both edges, never clips. -/
def drawSprite (g : Grid) (x0 y0 : Byte) (rows : List Byte) : Grid × Bool := drawRows x0 y0 0 rows (g, false)

/-- 00E0 (rule R170). -/
def execCls (s : State) : Host.Outcome State Fault Refusal := .next (s.setFb Grid.clear)

/-- DXYN (rule R173): the coordinates are read before VF is written, the rows at addresses up to 0xFFF are drawn, VF is
written last. -/
def execDrw (x y : Reg) (n : BitVec 4) (s : State) : Host.Outcome State Fault Refusal :=
  let drawn := drawSprite s.fb (s.reg x) (s.reg y) ((s.span n.toNat).map s.readByte)
  .next (((s.flagClamp (encode (.drw x y n)) n.toNat).setFb drawn.1).setFlag drawn.2)

end Sys2Proof.Machine
end

