-- ==== Sys2Proof/Machine/Flow.lean ====
section
/-! DEFINITION. 42_flow.md: return, jumps, call, and the skips on registers. -/

namespace Sys2Proof.Machine

/-- 00EE (rule R192): with an empty stack the fatal StackUnderflow, PC staying past the instruction (60 R332). -/
def execRet (s : State) : Host.Outcome State Fault Refusal :=
  match s.pop with
  | some (target, popped) => .next (popped.setPc target)
  | none => .next (s.raise (.stackUnderflow s.instrAddr (encode .ret)))

/-- 1NNN (rule R193). -/
def execJp (nnn : BitVec 12) (s : State) : Host.Outcome State Fault Refusal := .next (s.setPc (zext16 nnn))

/-- 2NNN (rule R194): pushes PC after the fetch; with a full stack the fatal StackOverflow and no jump (60 R332). -/
def execCall (nnn : BitVec 12) (s : State) : Host.Outcome State Fault Refusal :=
  match s.push s.pc with
  | some pushed => .next (pushed.setPc (zext16 nnn))
  | none => .next (s.raise (.stackOverflow s.instrAddr (encode (.call nnn))))

/-- 3XNN (rule R196). -/
def execSeImm (x : Reg) (nn : Byte) (s : State) : Host.Outcome State Fault Refusal := .next (s.skipIf (s.reg x == nn))

/-- 4XNN (rule R197). -/
def execSneImm (x : Reg) (nn : Byte) (s : State) : Host.Outcome State Fault Refusal := .next (s.skipIf (s.reg x != nn))

/-- 5XY0 (rule R198). -/
def execSeReg (x y : Reg) (s : State) : Host.Outcome State Fault Refusal := .next (s.skipIf (s.reg x == s.reg y))

/-- 9XY0 (rule R199). -/
def execSneReg (x y : Reg) (s : State) : Host.Outcome State Fault Refusal := .next (s.skipIf (s.reg x != s.reg y))

/-- BNNN (rule R200): always V0, the sum not reduced mod 4096. -/
def execJpV0 (nnn : BitVec 12) (s : State) : Host.Outcome State Fault Refusal :=
  .next (s.setPc (zext16 nnn + zext16 (s.reg Reg.v0)))

end Sys2Proof.Machine
end

