-- ==== Sys2Proof/Machine/IndexMemory.lean ====
section
/-! DEFINITION. 44_index_memory.md: the index register and the transfers between registers and memory. -/

namespace Sys2Proof.Machine

/-- ANNN (rule R260). -/
def execLdI (nnn : BitVec 12) (s : State) : Host.Outcome State Fault Refusal := .next (s.setI (zext16 nnn))

/-- FX1E (rule R261): I wraps mod 4096, and a sum from 0x1000 up is flagged; VF is untouched. -/
def execAddI (x : Reg) (s : State) : Host.Outcome State Fault Refusal :=
  let sum := s.i.toNat + (s.reg x).toNat
  let flagged := if 0x1000 ≤ sum then s.raise (.outOfBoundsAccess s.instrAddr (encode (.addI x)) sum) else s
  .next (flagged.setI (BitVec.ofNat 16 (sum % 4096)))

/-- FX29 (rule R262). -/
def execLdF (x : Reg) (s : State) : Host.Outcome State Fault Refusal := .next (s.setI (glyphAddress (s.reg x)))

/-- FX33 (rule R263): three digits at I, I+1, I+2, truncated at 0xFFF; I is kept. -/
def execLdB (x : Reg) (s : State) : Host.Outcome State Fault Refusal :=
  .next ((s.flagClamp (encode (.ldB x)) 3).writeBytes (s.span 3) (decimalDigits (s.reg x)))

/-- FX55 (rule R264): V0 to Vx at I, I+1, …, truncated at 0xFFF; I is kept. -/
def execStoreRegs (x : Reg) (s : State) : Host.Outcome State Fault Refusal :=
  .next ((s.flagClamp (encode (.storeRegs x)) (x.val + 1)).writeBytes (s.span (x.val + 1)) ((regsUpTo x).map s.reg))

/-- FX65 (rule R265): V0 to Vx from I, I+1, …; a register whose address is above 0xFFF keeps its value; I is kept. -/
def execLoadRegs (x : Reg) (s : State) : Host.Outcome State Fault Refusal :=
  .next ((s.flagClamp (encode (.loadRegs x)) (x.val + 1)).setRegs (regsUpTo x) ((s.span (x.val + 1)).map s.readByte))

end Sys2Proof.Machine
end

