-- ==== Sys2Proof/Machine/KeysTimers.lean ====
section
/-! DEFINITION. 45_keys_timers.md: key tests, the key wait, and the timers. -/

namespace Sys2Proof.Machine

/-- EX9E (rule R290). -/
def execSkp (x : Reg) (s : State) : Host.Outcome State Fault Refusal := .next (s.skipIf (s.key (lowNibble (s.reg x))))

/-- EXA1 (rule R291). -/
def execSknp (x : Reg) (s : State) : Host.Outcome State Fault Refusal := .next (s.skipIf (!s.key (lowNibble (s.reg x))))

/-- FX07 (rule R292). -/
def execLdVxDT (x : Reg) (s : State) : Host.Outcome State Fault Refusal := .next (s.setReg x s.dt)

/-- FX0A (rule R293): the wait is entered and earlier presses do not count; a later cycle writes Vx (40 R142). -/
def execLdVxK (x : Reg) (s : State) : Host.Outcome State Fault Refusal := .next ((s.setWait (some x)).setLatch none)

/-- FX15 (rule R294). -/
def execLdDTVx (x : Reg) (s : State) : Host.Outcome State Fault Refusal := .next (s.setDt (s.reg x))

/-- FX18 (rule R295). -/
def execLdSTVx (x : Reg) (s : State) : Host.Outcome State Fault Refusal := .next (s.setSt (s.reg x))

end Sys2Proof.Machine
end

