-- ==== Sys2Proof/Machine/Cycle.lean ====
section
/-! DEFINITION. 40_cycle.md: one step of the interpreter, `cycle()`. -/

namespace Sys2Proof.Machine

/-- The bytes at PC and PC+1 when both lie in memory; none when PC > 0x0FFE (rule R143). -/
def State.fetchBytes (s : State) : Option (Byte × Byte) :=
  if h : s.pc.toNat + 1 < 4096 then
    some (s.readByte ⟨s.pc.toNat, by omega⟩, s.readByte ⟨s.pc.toNat + 1, h⟩)
  else none

/-- The state an instruction's meaning starts from: PC two further and status Ok (rules R145, R154). -/
def State.advance (s : State) : State := (s.setPc (s.pc + 2)).answer (.status .ok)

/-- An unmapped word does nothing but return its status (rule R147); the address is that of the instruction. -/
def execUnmapped (op : Word) (s : State) : Host.Outcome State Fault Refusal :=
  .next (s.raise (.unknownOpcode s.instrAddr op))

/-- The end of a key wait: Vx takes the key's index, and nothing is fetched (rule R142). -/
def State.completeWait (s : State) (x : Reg) (k : Key) : State :=
  (((s.setReg x (BitVec.ofNat 8 k.val)).setWait none).setLatch none).answer (.status .ok)

/-- Fetch, pre-advance, decode and execute (rules R143 to R148). -/
def fetchExecute (s : State) : Host.Outcome State Fault Refusal :=
  match s.fetchBytes with
  | none => .next (s.raise (.pcOutOfRange s.pc))
  | some (hi, lo) =>
    match decode (wordOfBytes hi lo) with
    | .error _ => execUnmapped (wordOfBytes hi lo) s.advance
    | .ok i => exec i s.advance

/-- `cycle()` (rule R154). -/
def cycle (s : State) : Host.Outcome State Fault Refusal :=
  match s.halt with
  | some c => .next (s.answer (.status (.halted c)))
  | none =>
    match s.wait with
    | some x =>
      match s.latch with
      | none => .next (s.answer (.status .waiting))
      | some k => .next (s.completeWait x k)
    | none => fetchExecute s

end Sys2Proof.Machine
end

