-- ==== Sys2Proof/Machine/HostOps.lean ====
section
/-! DEFINITION. The host operations of 10_state.md rule R50. -/

namespace Sys2Proof.Machine

/-- `reset()` (70_reset_and_hazards.md rule R380): every element of the block at its reset value; the parameters, the
draws made and the schedule are not the block's and stay. -/
def hostReset (s : State) : State :=
  { State.reset with params := s.params, draws := s.draws, schedule := s.schedule }

/-- The most bytes a ROM may have (00_scope.md rule R14). -/
def maxRom : Nat := 0xE00

/-- `loadProgram(bytes)` (70_reset_and_hazards.md rule R383): a ROM that is too large changes nothing, another one
follows a reset and is copied to 0x200 (20_memory.md rule R80). -/
def hostLoadProgram (bytes : List Byte) (s : State) : State :=
  if maxRom < bytes.length then s.answer .romTooLarge
  else { hostReset s with mem := memLoad s.image (hostReset s).mem 0x200 bytes, result := .loaded }

/-- A timer after a tick (60_exceptions.md rule R350). -/
def ticked (t : Byte) : Byte := if t = 0 then t else t - 1

/-- `tick()` (60_exceptions.md rules R350, R351): the same in every state. -/
def hostTick (s : State) : State := ((s.setDt (ticked s.dt)).setSt (ticked s.st)).answer .nothing

/-- The key-press event of `setKey` (60_exceptions.md rule R352): the first press during a wait is latched. -/
def State.press (s : State) (k : Key) : State :=
  if s.wait.isSome && s.latch.isNone then s.setLatch (some k) else s

/-- `setKey(k, pressed)` (60_exceptions.md rules R352, R353). -/
def hostSetKey (k : Nat) (pressed : Bool) (s : State) : Host.Outcome State Fault Refusal :=
  if h : k < 16 then
    let written := (s.putKey ⟨k, h⟩ pressed).answer .nothing
    .next (if pressed then written.press ⟨k, h⟩ else written)
  else .refused (.keyIndexOutOfRange k)

/-- `getFramebuffer()` (10_state.md rule R54). -/
def hostGetFramebuffer (s : State) : State := s.answer (.framebuffer s.fb)

/-- `isSoundActive()` (10_state.md rule R55). -/
def hostIsSoundActive (s : State) : State := s.answer (.sound (decide (0 < s.st.toNat)))

/-- `snapshot()` (10_state.md rule R56). -/
def hostSnapshot (s : State) : State := s.answer (.snapshot s.toBlock s.params)

/-- One host operation, run to completion (10_state.md rule R51). -/
def perform (call : HostCall) (s : State) : Host.Outcome State Fault Refusal :=
  match call with
  | .reset => .next (hostReset s)
  | .loadProgram bytes => .next (hostLoadProgram bytes s)
  | .cycle => cycle s
  | .tick => .next (hostTick s)
  | .setKey k pressed => hostSetKey k pressed s
  | .getFramebuffer => .next (hostGetFramebuffer s)
  | .isSoundActive => .next (hostIsSoundActive s)
  | .snapshot => .next (hostSnapshot s)

/-- A state in which the next step is a `cycle()` that fetches: no scheduled operation, no halt, no key wait, and PC
where both bytes of a word lie in memory (40_cycle.md rules R140 to R143). -/
def State.readyToFetch (s : State) : State :=
  { s with
    schedule := []
    halt := none
    wait := none
    pc := if s.pc.toNat + 1 < 4096 then s.pc else 0x0200 }

/-- A word placed at PC, high byte first (20_memory.md rule R81). -/
def State.placeWord (s : State) (op : Word) : State :=
  if h : s.pc.toNat + 1 < 4096 then
    (s.pokeByte ⟨s.pc.toNat, by omega⟩ (wordHigh op)).pokeByte ⟨s.pc.toNat + 1, h⟩ (wordLow op)
  else s

end Sys2Proof.Machine
end

