-- ==== Sys2Proof/Machine/Step.lean ====
section
/-! DEFINITION. One step of the machine: the next host operation (10_state.md rules R50, R51; assumption log 1). -/

namespace Sys2Proof.Machine

/-- One step: the host operation that comes next is taken from the schedule and performed. With nothing scheduled it is
`cycle()`, the interpreter's own step. -/
def step (s : State) : Host.Outcome State Fault Refusal := perform s.nextCall s.dropCall

/-- The state with the instruction whose bits are `w` (numbered as the opcode table does) where the next step fetches
it (assumption log 10). -/
def State.withFetchWord (s : State) (nbits w : Nat) : State := s.readyToFetch.placeWord (tableWord nbits w)

end Sys2Proof.Machine
end

