-- ==== Sys2Proof/Safety.lean ====
section
/-! DEFINITION. What the statements speak of: the invariant of reachable states, what each instruction may write, and
the sprite bit that lies over a cell. -/

namespace Sys2Proof.Machine

/-- The largest value PC takes in a reachable state (10_state.md rule R36). -/
def maxPc : Nat := 0x10FE

/-- What HALT's cause says of a halted state (60_exceptions.md rules R330, R332). -/
def causeFits (sp : Fin 17) (pc : Word) : Cause → Bool
  | .stackOverflow a _ => decide (sp.val = 16) && decide (pc = a + 2)
  | .stackUnderflow a _ => decide (sp.val = 0) && decide (pc = a + 2)
  | .pcOutOfRange p => decide (pc = p) && decide (0x0FFE < p.toNat)

/-- The invariant of the machine, which reset establishes and every step keeps. Each conjunct is a rule of the spec or
follows from the rules; none is about unreachable states only. -/
structure State.Inv (s : State) : Prop where
  /-- Memory has its one canonical form. -/
  memory : memWf s.image s.mem = true
  /-- `I <= 0xFFF` (10_state.md rule R34). -/
  index : s.i.toNat ≤ 0x0FFF
  /-- PC is at most 0x10FE (rule R36). -/
  pc : s.pc.toNat ≤ maxPc
  /-- A stack entry is a PC after a fetch, at most 0x1000, or 0 (rule R194). -/
  stack : ∀ k : Fin 16, (s.entry k).toNat ≤ 0x1000
  /-- LATCH holds a press only during a wait (rule R45). -/
  latch : s.latch.isSome = true → s.wait.isSome = true
  /-- HALT and WAIT are never both set (60_exceptions.md rule R336). -/
  halted : s.halt.isSome = true → s.wait = none
  /-- A halted machine stays as its fatal status left it (60_exceptions.md rule R332). -/
  cause : ∀ c, s.halt = some c → causeFits s.sp s.pc c = true

/-- Where instructions may not write the font region, it holds FONT_TABLE (20_memory.md rules R72, R79). -/
def State.FontIntact (s : State) : Prop :=
  s.params.fontWritable = false → ∀ a : Addr, a.val < 80 → s.readByte a = resetImage s.params.font a.val

/-- The sprite column that a draw from column `x0` puts on grid column `c`, 0 to 63 (41_display.md rule R171). -/
def spriteColumn (x0 : Byte) (c : Fin 64) : Nat := (c.val + (64 - x0.toNat % 64)) % 64

/-- The sprite row that a draw from row `y0` puts on grid row `r`, 0 to 31 (rule R171). -/
def spriteLine (y0 : Byte) (r : Fin 32) : Nat := (r.val + (32 - y0.toNat % 32)) % 32

/-- The sprite bit over a cell: bit 7 of a byte is its column 0, and beyond eight columns or the rows given there is
none (rules R171, R172). -/
def spriteBit (x0 y0 : Byte) (rows : List Byte) (c : Fin 64) (r : Fin 32) : Bool :=
  decide (spriteColumn x0 c < 8) && decide (spriteLine y0 r < rows.length) &&
    (rows.getD (spriteLine y0 r) 0).getLsbD (7 - spriteColumn x0 c)

/-- The sprite rows a DXYN in state `s` draws: the bytes at I, I+1, … up to 0xFFF, at most `n` of them (41_display.md
rule R173). -/
def drawnRows (s : State) (n : BitVec 4) : List Byte := (s.span n.toNat).map s.readByte

/-- What a clamped access of `count` bytes leaves as the cycle's status (20_memory.md rule R85): the old result, or
OutOfBoundsAccess at 0x1000 when the range passes the end of memory. -/
def clampedResult (s : State) (op : Word) (count : Nat) : Result :=
  if 0x1000 < s.i.toNat + count then .status (.outOfBoundsAccess (s.pc - 2) op 0x1000) else s.result

/-- The effects on PC of 40_cycle.md rule R150. -/
inductive PcEffect where
  /-- PC stays at the pre-advance. -/
  | goOn
  /-- PC may move 2 further. -/
  | skip
  /-- PC is set to a target, or, for 2NNN and 00EE at the stack's limits, the machine halts. -/
  | jump
  deriving DecidableEq, Repr

/-- The effect each instruction has on PC (40_cycle.md rule R150). -/
def pcEffect : Instr → PcEffect
  | .jp _ => .jump
  | .call _ => .jump
  | .ret => .jump
  | .jpV0 _ => .jump
  | .seImm _ _ => .skip
  | .sneImm _ _ => .skip
  | .seReg _ _ => .skip
  | .sneReg _ _ => .skip
  | .skp _ => .skip
  | .sknp _ => .skip
  | .cls => .goOn
  | .ldImm _ _ => .goOn
  | .addImm _ _ => .goOn
  | .ldReg _ _ => .goOn
  | .orReg _ _ => .goOn
  | .andReg _ _ => .goOn
  | .xorReg _ _ => .goOn
  | .addReg _ _ => .goOn
  | .subReg _ _ => .goOn
  | .shr _ _ => .goOn
  | .subnReg _ _ => .goOn
  | .shl _ _ => .goOn
  | .ldI _ => .goOn
  | .rnd _ _ => .goOn
  | .drw _ _ _ => .goOn
  | .ldVxDT _ => .goOn
  | .ldVxK _ => .goOn
  | .ldDTVx _ => .goOn
  | .ldSTVx _ => .goOn
  | .addI _ => .goOn
  | .ldF _ => .goOn
  | .ldB _ => .goOn
  | .storeRegs _ => .goOn
  | .loadRegs _ => .goOn

/-! ## What an instruction may write: the frames

Each table lists every instruction; an entry is what the instruction's own rule writes. -/

/-- The general registers an instruction writes in its own cycle (10_state.md rules R31, R32). FX0A writes Vx in the
cycle that ends its wait (40_cycle.md rule R142), not in its own. -/
def writesReg (i : Instr) (r : Reg) : Bool :=
  match i with
  | .ldImm x _ => r == x
  | .addImm x _ => r == x
  | .ldReg x _ => r == x
  | .orReg x _ => r == x
  | .andReg x _ => r == x
  | .xorReg x _ => r == x
  | .rnd x _ => r == x
  | .ldVxDT x => r == x
  | .addReg x _ => r == x || r == Reg.vf
  | .subReg x _ => r == x || r == Reg.vf
  | .shr x _ => r == x || r == Reg.vf
  | .subnReg x _ => r == x || r == Reg.vf
  | .shl x _ => r == x || r == Reg.vf
  | .drw _ _ _ => r == Reg.vf
  | .loadRegs x => decide (r.val ≤ x.val)
  | .cls => false
  | .ret => false
  | .jp _ => false
  | .call _ => false
  | .seImm _ _ => false
  | .sneImm _ _ => false
  | .seReg _ _ => false
  | .sneReg _ _ => false
  | .ldI _ => false
  | .jpV0 _ => false
  | .skp _ => false
  | .sknp _ => false
  | .ldVxK _ => false
  | .ldDTVx _ => false
  | .ldSTVx _ => false
  | .addI _ => false
  | .ldF _ => false
  | .ldB _ => false
  | .storeRegs _ => false

/-- The instructions that write VF as a flag (10_state.md rule R32): 8XY4 to 8XY7, 8XYE and DXYN. -/
def writesFlag : Instr → Bool
  | .addReg _ _ => true
  | .subReg _ _ => true
  | .shr _ _ => true
  | .subnReg _ _ => true
  | .shl _ _ => true
  | .drw _ _ _ => true
  | .cls => false
  | .ret => false
  | .jp _ => false
  | .call _ => false
  | .seImm _ _ => false
  | .sneImm _ _ => false
  | .seReg _ _ => false
  | .ldImm _ _ => false
  | .addImm _ _ => false
  | .ldReg _ _ => false
  | .orReg _ _ => false
  | .andReg _ _ => false
  | .xorReg _ _ => false
  | .sneReg _ _ => false
  | .ldI _ => false
  | .jpV0 _ => false
  | .rnd _ _ => false
  | .skp _ => false
  | .sknp _ => false
  | .ldVxDT _ => false
  | .ldVxK _ => false
  | .ldDTVx _ => false
  | .ldSTVx _ => false
  | .addI _ => false
  | .ldF _ => false
  | .ldB _ => false
  | .storeRegs _ => false
  | .loadRegs _ => false

/-- How many bytes from `I` up an instruction stores to: three for FX33, x + 1 for FX55, none for any other
(20_memory.md rules R70, R82). -/
def storeCount : Instr → Nat
  | .ldB _ => 3
  | .storeRegs x => x.val + 1
  | .cls => 0
  | .ret => 0
  | .jp _ => 0
  | .call _ => 0
  | .seImm _ _ => 0
  | .sneImm _ _ => 0
  | .seReg _ _ => 0
  | .ldImm _ _ => 0
  | .addImm _ _ => 0
  | .ldReg _ _ => 0
  | .orReg _ _ => 0
  | .andReg _ _ => 0
  | .xorReg _ _ => 0
  | .addReg _ _ => 0
  | .subReg _ _ => 0
  | .shr _ _ => 0
  | .subnReg _ _ => 0
  | .shl _ _ => 0
  | .sneReg _ _ => 0
  | .ldI _ => 0
  | .jpV0 _ => 0
  | .rnd _ _ => 0
  | .drw _ _ _ => 0
  | .skp _ => 0
  | .sknp _ => 0
  | .ldVxDT _ => 0
  | .ldVxK _ => 0
  | .ldDTVx _ => 0
  | .ldSTVx _ => 0
  | .addI _ => 0
  | .ldF _ => 0
  | .loadRegs _ => 0

end Sys2Proof.Machine
end

