-- ==== Sys2Proof/Certificates/Slice0/Obligations.lean ====
section
/-! DEFINITION. The statements for the provers, each with the rules of spec/ it formalises. In a statement `s` is the
state an instruction starts from, with PC already past it (40_cycle.md rule R145) and status Ok recorded (R154);
`t = { s with v := t.v }` says that `t` is `s` but for the general registers. -/

open Sys2Proof Sys2Proof.Machine

/-! ## Encoding -/

/-- 30_encoding.md, section 1: every instruction with every operand is what its own word decodes to. -/
def Obligations.EncodedInstructionDecodesToItself : Prop :=
  ∀ i : Instr, decode (encode i) = .ok i ∧ ∀ rest, decodeBytes (encodeBytes i ++ rest) = .ok (i, rest)

/-- 30_encoding.md, section 1: a word that decodes is the word of the instruction it decodes to, so no two words
decode to one instruction and no bit of a word is dropped. -/
def Obligations.DecodedWordEncodesToItself : Prop :=
  ∀ (op : Word) (i : Instr), decode op = .ok i → encode i = op

/-- 30_encoding.md rule R113: the dispatch of R114 agrees with the opcode map read as masks: a word decodes to an
instruction of exactly the row that selects it, no two rows select one word, and a word no row selects is refused. -/
def Obligations.DispatchAgreesWithTheOpcodeMap : Prop :=
  (∀ (op : Word) (i : Instr), decode op = .ok i → i.row ∈ opcodeMap ∧ i.row.selects op = true) ∧
  (∀ op : Word, wordMapped op = false → decode op = .error (.unmapped op)) ∧
  (∀ op : Word, wordMapped op = true → ∃ i, decode op = .ok i) ∧
  (∀ (op : Word) (r q : OpcodeRow), r ∈ opcodeMap → q ∈ opcodeMap → r.selects op = true → q.selects op = true → r = q)

/-- 30_encoding.md rule R118 (marked derived): the unmapped words, class by class, by the word's own digits. -/
def Obligations.UnmappedWordsByClass : Prop :=
  ∀ op : Word,
    let n3 := op.toNat / 4096
    let n := op.toNat % 16
    let nn := op.toNat % 256
    decode op = .error (.unmapped op) ↔
      (n3 = 0x0 ∧ op.toNat ≠ 0x00E0 ∧ op.toNat ≠ 0x00EE) ∨
      (n3 = 0x5 ∧ n ≠ 0) ∨
      (n3 = 0x8 ∧ n ∈ [0x8, 0x9, 0xA, 0xB, 0xC, 0xD, 0xF]) ∨
      (n3 = 0x9 ∧ n ≠ 0) ∨
      (n3 = 0xE ∧ nn ∉ [0x9E, 0xA1]) ∨
      (n3 = 0xF ∧ nn ∉ [0x07, 0x0A, 0x15, 0x18, 0x1E, 0x29, 0x33, 0x55, 0x65])

/-- A sanity statement: words written out from the examples of the spec's rules, one per family at least. -/
def Obligations.WordsOfTheSpecDecode : Prop :=
  decode 0x00E0 = .ok .cls ∧ decode 0xD011 = .ok (.drw 0 1 1) ∧ decode 0x00EE = .ok .ret ∧
  decode 0x220A = .ok (.call 0x20A) ∧ decode 0x3342 = .ok (.seImm 3 0x42) ∧ decode 0xBFFF = .ok (.jpV0 0xFFF) ∧
  decode 0x8015 = .ok (.subReg 0 1) ∧ decode 0x810E = .ok (.shl 1 0) ∧ decode 0xC30F = .ok (.rnd 3 0x0F) ∧
  decode 0xF21E = .ok (.addI 2) ∧ decode 0xF155 = .ok (.storeRegs 1) ∧ decode 0xE49E = .ok (.skp 4) ∧
  decode 0xF10A = .ok (.ldVxK 1)

/-! ## The cycle -/

/-- 40_cycle.md rules R144, R145, R148: when the next operation is a cycle that is neither halted nor waiting and the
big-endian word at PC decodes, the step is the instruction's own meaning, started with PC two further and status Ok. -/
def Obligations.StepRunsTheDecodedInstruction : Prop :=
  ∀ (s : State) (i : Instr) (h : s.pc.toNat + 1 < 4096),
    s.nextCall = .cycle → s.halt = none → s.wait = none →
    decode (BitVec.ofNat 16 ((s.readByte ⟨s.pc.toNat, Nat.lt_of_succ_lt h⟩).toNat * 256 +
      (s.readByte ⟨s.pc.toNat + 1, h⟩).toNat)) = .ok i →
    step s = exec i { s with schedule := s.schedule.tail, pc := s.pc + 2, result := .status .ok }

/-- 40_cycle.md rule R147: an unmapped word is a no-op that advances PC by 2 and returns UnknownOpcode(a, op). -/
def Obligations.UnmappedWordOnlyAdvancesPc : Prop :=
  ∀ (s : State) (op : Word) (h : s.pc.toNat + 1 < 4096),
    s.nextCall = .cycle → s.halt = none → s.wait = none →
    op.toNat = (s.readByte ⟨s.pc.toNat, Nat.lt_of_succ_lt h⟩).toNat * 256 + (s.readByte ⟨s.pc.toNat + 1, h⟩).toNat →
    wordMapped op = false →
    step s = .next { s with
      schedule := s.schedule.tail, pc := s.pc + 2, result := .status (.unknownOpcode s.pc op) }

/-- 40_cycle.md, section 1 (the spec's decision D6, its rule R140): a halted cycle returns the stored cause and changes
nothing. -/
def Obligations.HaltedCycleChangesNothing : Prop :=
  ∀ (s : State) (c : Cause), s.nextCall = .cycle → s.halt = some c →
    step s = .next { s with schedule := s.schedule.tail, result := .status (.halted c) }

/-- 40_cycle.md rule R141: a cycle during a key wait with no press latched returns Waiting and changes nothing. -/
def Obligations.WaitingCycleChangesNothing : Prop :=
  ∀ (s : State) (x : Reg), s.nextCall = .cycle → s.halt = none → s.wait = some x → s.latch = none →
    step s = .next { s with schedule := s.schedule.tail, result := .status .waiting }

/-- 40_cycle.md, section 1 (the spec's decision D14, its rule R142): the cycle that ends a wait writes Vx with the key's
index, clears WAIT and LATCH, and fetches nothing. -/
def Obligations.LatchedKeyEndsTheWait : Prop :=
  ∀ (s : State) (x : Reg) (k : Key),
    s.nextCall = .cycle → s.halt = none → s.wait = some x → s.latch = some k →
    ∃ t, step s = .next t ∧
      t = { s with schedule := s.schedule.tail, v := t.v, wait := none, latch := none, result := .status .ok } ∧
      (∀ r, (t.reg r).toNat = if r = x then k.val else (s.reg r).toNat)

/-- 40_cycle.md, section 1 (the spec's decision D3, its rule R143): a fetch with PC above 0x0FFE halts with
PcOutOfRange(PC) and changes nothing else. -/
def Obligations.FetchBeyondMemoryHalts : Prop :=
  ∀ s : State, s.nextCall = .cycle → s.halt = none → s.wait = none → 0x0FFE < s.pc.toNat →
    step s = .next { s with
      schedule := s.schedule.tail, halt := some (.pcOutOfRange s.pc), result := .status (.pcOutOfRange s.pc) }

/-- 40_cycle.md rule R152: `cycle()` always returns; it neither faults nor is refused, in any state. -/
def Obligations.CycleAlwaysReturns : Prop := ∀ s : State, ∃ t, cycle s = .next t

/-- 10_state.md, section 6, and 60_exceptions.md, section 4 (decision D21, its rule R353): a step never faults, and it is
refused exactly for `setKey` with an index above 15. -/
def Obligations.OnlyAKeyIndexOutOfRangeIsRefused : Prop :=
  ∀ s : State,
    (∀ k p, s.nextCall = .setKey k p → 15 < k → step s = .refused (.keyIndexOutOfRange k)) ∧
    ((∀ k p, s.nextCall = .setKey k p → k ≤ 15) → ∃ t, step s = .next t)

/-! ## Display -/

/-- 41_display.md rule R170: 00E0 clears every cell and changes nothing else. -/
def Obligations.ClearScreenClearsEveryCell : Prop :=
  (encode .cls).toNat = 0x00E0 ∧
  ∀ s : State, ∃ t, exec .cls s = .next t ∧ t = { s with fb := t.fb } ∧ ∀ c r, t.cell c r = false

/-- 41_display.md (DXYN with the spec's decisions D2, D7, D10, D11) and 20_memory.md, section 3: with `rows` the bytes
at I to I + n - 1 that lie in memory, DXYN XORs each sprite bit into the cell it lies over (wrapping at both edges), VF
ends as 1 exactly when a 1 bit lay over a lit cell, and the status is OutOfBoundsAccess exactly when I + n > 0x1000.
Holds for x = 15, y = 15 and n = 0 too. -/
def Obligations.DrawXorsTheSprite : Prop :=
  ∀ (s : State) (x y : Reg) (n : BitVec 4), s.i.toNat ≤ 0x0FFF →
    ∃ (rows : List Byte) (t : State), exec (.drw x y n) s = .next t ∧
      rows.length = min n.toNat (0x1000 - s.i.toNat) ∧
      (∀ (j : Nat) (h : s.i.toNat + j < 4096), j < n.toNat → rows[j]? = some (s.readByte ⟨s.i.toNat + j, h⟩)) ∧
      t = { s with v := t.v, fb := t.fb, result := t.result } ∧
      (∀ c r, t.cell c r = (s.cell c r ^^ spriteBit (s.reg x) (s.reg y) rows c r)) ∧
      (t.reg 15 = 0 ∨ t.reg 15 = 1) ∧
      (t.reg 15 = 1 ↔ ∃ c r, spriteBit (s.reg x) (s.reg y) rows c r = true ∧ s.cell c r = true) ∧
      (∀ r, r ≠ 15 → t.reg r = s.reg r) ∧
      t.result = clampedResult s (encode (.drw x y n)) n.toNat

/-- 41_display.md, corner cases of DXYN: drawing the same sprite twice at the same place restores the framebuffer; and
where the first draw met no lit cell (VF = 0), the second one sets VF exactly when the sprite has a 1 bit. (The spec's
sentence leaves that condition out; its pseudocode, which the model follows, needs it: assumption log 14.) -/
def Obligations.DrawingTwiceRestoresTheScreen : Prop :=
  ∀ (s t u : State) (x y : Reg) (n : BitVec 4), x ≠ 15 → y ≠ 15 →
    exec (.drw x y n) s = .next t → exec (.drw x y n) t = .next u →
    u.fb = s.fb ∧
    (t.reg 15 = 0 →
      (u.reg 15 = 1 ↔ ∃ c r, spriteBit (s.reg x) (s.reg y) (drawnRows s n) c r = true))

/-! ## Control flow -/

/-- 42_flow.md, section 2 (rule R192 with the spec's decision D26 on the slot): a return with an occupied stack takes
PC from the top entry, lowers SP by one, and changes nothing else. -/
def Obligations.ReturnPopsThePc : Prop :=
  ∀ s : State, ∀ h : 0 < s.sp.val,
    ∃ t, exec .ret s = .next t ∧ t = { s with pc := t.pc, sp := t.sp } ∧ t.sp.val = s.sp.val - 1 ∧
      t.pc = s.entry ⟨s.sp.val - 1, Nat.lt_of_lt_of_le (Nat.sub_lt h Nat.one_pos) (Nat.le_of_lt_succ s.sp.isLt)⟩

/-- 42_flow.md, sections 1 and 2, and 60_exceptions.md, section 1 (decision D6): a return with an empty stack and a call
with a full one halt with the fatal status, PC staying past the instruction and nothing else changed. -/
def Obligations.StackLimitsHalt : Prop :=
  (∀ s : State, s.sp.val = 0 →
    exec .ret s = .next { s with
      halt := some (.stackUnderflow (s.pc - 2) 0x00EE), result := .status (.stackUnderflow (s.pc - 2) 0x00EE) }) ∧
  (∀ (s : State) (nnn : BitVec 12) (op : Word), s.sp.val = 16 → op.toNat = 0x2000 + nnn.toNat →
    exec (.call nnn) s = .next { s with
      halt := some (.stackOverflow (s.pc - 2) op), result := .status (.stackOverflow (s.pc - 2) op) })

/-- 42_flow.md, section 2 (rule R194 with the spec's decision D26 on the slot): a call with room on the stack stores
PC, which is past the call, at S[SP], raises SP by one and jumps. -/
def Obligations.CallPushesThePc : Prop :=
  ∀ (s : State) (nnn : BitVec 12), s.sp.val < 16 →
    ∃ t, exec (.call nnn) s = .next t ∧ t = { s with pc := t.pc, sp := t.sp, stack := t.stack } ∧
      t.sp.val = s.sp.val + 1 ∧ t.pc.toNat = nnn.toNat ∧
      (∀ k : Fin 16, t.entry k = if k.val = s.sp.val then s.pc else s.entry k)

/-- 42_flow.md, section 2 (source example W8): a return right after a call restores PC and SP, and gives back all else
but the one entry the call wrote, which keeps the return address (the slot is the spec's decision D26). -/
def Obligations.ReturnAfterCallRestoresPc : Prop :=
  ∀ (s : State) (nnn : BitVec 12), s.sp.val < 16 →
    ∃ t u, exec (.call nnn) s = .next t ∧ exec .ret t = .next u ∧ u.pc = s.pc ∧ u.sp = s.sp ∧
      u = { s with stack := u.stack } ∧ ∀ k : Fin 16, u.entry k = if k.val = s.sp.val then s.pc else s.entry k

/-- 42_flow.md rule R193: a jump sets PC to its address and changes nothing else. -/
def Obligations.JumpSetsThePc : Prop :=
  ∀ (s : State) (nnn : BitVec 12),
    (encode (.jp nnn)).toNat = 0x1000 + nnn.toNat ∧
    ∃ t, exec (.jp nnn) s = .next t ∧ t = { s with pc := t.pc } ∧ t.pc.toNat = nnn.toNat

/-- 42_flow.md, section 4 (rule R200 with the spec's decision D5): BNNN sets PC to the address plus V0, not reduced. -/
def Obligations.ComputedJumpAddsV0 : Prop :=
  ∀ (s : State) (nnn : BitVec 12),
    ∃ t, exec (.jpV0 nnn) s = .next t ∧ t = { s with pc := t.pc } ∧ t.pc.toNat = nnn.toNat + (s.reg 0).toNat

/-- 42_flow.md rules R196, R197, R198, R199: the four skips on registers advance PC by 2 more exactly when their
condition holds, and change nothing else. -/
def Obligations.RegisterSkips : Prop :=
  ∀ (s : State) (x y : Reg) (nn : Byte),
    (encode (.seImm x nn)).toNat = 0x3000 + x.val * 256 + nn.toNat ∧
    (encode (.sneImm x nn)).toNat = 0x4000 + x.val * 256 + nn.toNat ∧
    (encode (.seReg x y)).toNat = 0x5000 + x.val * 256 + y.val * 16 ∧
    (encode (.sneReg x y)).toNat = 0x9000 + x.val * 256 + y.val * 16 ∧
    exec (.seImm x nn) s = .next { s with pc := if s.reg x = nn then s.pc + 2 else s.pc } ∧
    exec (.sneImm x nn) s = .next { s with pc := if s.reg x = nn then s.pc else s.pc + 2 } ∧
    exec (.seReg x y) s = .next { s with pc := if s.reg x = s.reg y then s.pc + 2 else s.pc } ∧
    exec (.sneReg x y) s = .next { s with pc := if s.reg x = s.reg y then s.pc else s.pc + 2 }

/-! ## Arithmetic and logic -/

/-- 43_alu.md rules R220, R221, R222: the two loads and the immediate add write Vx alone; the sum wraps and VF takes no
carry. -/
def Obligations.LoadsAndImmediateAdd : Prop :=
  ∀ (s : State) (x y : Reg) (nn : Byte),
    ((encode (.ldImm x nn)).toNat = 0x6000 + x.val * 256 + nn.toNat ∧
      ∃ t, exec (.ldImm x nn) s = .next t ∧ t = { s with v := t.v } ∧
        ∀ r, t.reg r = if r = x then nn else s.reg r) ∧
    ((encode (.addImm x nn)).toNat = 0x7000 + x.val * 256 + nn.toNat ∧
      ∃ t, exec (.addImm x nn) s = .next t ∧ t = { s with v := t.v } ∧
        ∀ r, (t.reg r).toNat = if r = x then ((s.reg x).toNat + nn.toNat) % 256 else (s.reg r).toNat) ∧
    ((encode (.ldReg x y)).toNat = 0x8000 + x.val * 256 + y.val * 16 ∧
      ∃ t, exec (.ldReg x y) s = .next t ∧ t = { s with v := t.v } ∧
        ∀ r, t.reg r = if r = x then s.reg y else s.reg r)

/-- 43_alu.md rules R223, R224, R225: the bitwise operations, bit by bit; they write Vx alone and leave VF. -/
def Obligations.BitwiseOperations : Prop :=
  ∀ (s : State) (x y : Reg),
    ((encode (.orReg x y)).toNat = 0x8001 + x.val * 256 + y.val * 16 ∧
      ∃ t, exec (.orReg x y) s = .next t ∧ t = { s with v := t.v } ∧ (∀ r, r ≠ x → t.reg r = s.reg r) ∧
        ∀ b, (t.reg x).getLsbD b = ((s.reg x).getLsbD b || (s.reg y).getLsbD b)) ∧
    ((encode (.andReg x y)).toNat = 0x8002 + x.val * 256 + y.val * 16 ∧
      ∃ t, exec (.andReg x y) s = .next t ∧ t = { s with v := t.v } ∧ (∀ r, r ≠ x → t.reg r = s.reg r) ∧
        ∀ b, (t.reg x).getLsbD b = ((s.reg x).getLsbD b && (s.reg y).getLsbD b)) ∧
    ((encode (.xorReg x y)).toNat = 0x8003 + x.val * 256 + y.val * 16 ∧
      ∃ t, exec (.xorReg x y) s = .next t ∧ t = { s with v := t.v } ∧ (∀ r, r ≠ x → t.reg r = s.reg r) ∧
        ∀ b, (t.reg x).getLsbD b = ((s.reg x).getLsbD b ^^ (s.reg y).getLsbD b))

/-- 43_alu.md, section 2, 8XY4, 8XY5 and 8XY7 (the order of the two writes is the spec's decision D2): the sum or the
difference mod 256 goes to Vx, and the carry or no-borrow to VF, VF last. -/
def Obligations.AddAndSubtractWithFlag : Prop :=
  ∀ (s : State) (x y : Reg),
    (∃ t, exec (.addReg x y) s = .next t ∧ t = { s with v := t.v } ∧
      ∀ r, (t.reg r).toNat =
        if r = 15 then (if 255 < (s.reg x).toNat + (s.reg y).toNat then 1 else 0)
        else if r = x then ((s.reg x).toNat + (s.reg y).toNat) % 256
        else (s.reg r).toNat) ∧
    (∃ t, exec (.subReg x y) s = .next t ∧ t = { s with v := t.v } ∧
      ∀ r, (t.reg r).toNat =
        if r = 15 then (if (s.reg y).toNat ≤ (s.reg x).toNat then 1 else 0)
        else if r = x then ((s.reg x).toNat + 256 - (s.reg y).toNat) % 256
        else (s.reg r).toNat) ∧
    (∃ t, exec (.subnReg x y) s = .next t ∧ t = { s with v := t.v } ∧
      ∀ r, (t.reg r).toNat =
        if r = 15 then (if (s.reg x).toNat ≤ (s.reg y).toNat then 1 else 0)
        else if r = x then ((s.reg y).toNat + 256 - (s.reg x).toNat) % 256
        else (s.reg r).toNat)

/-- 43_alu.md, section 2, 8XY6 and 8XYE (the order of the two writes is the spec's decision D2): one bit right or left,
the bit shifted out to VF, VF last; the field y plays no part. -/
def Obligations.ShiftsByOne : Prop :=
  ∀ (s : State) (x y : Reg),
    (∃ t, exec (.shr x y) s = .next t ∧ t = { s with v := t.v } ∧
      ∀ r, (t.reg r).toNat =
        if r = 15 then (s.reg x).toNat % 2 else if r = x then (s.reg x).toNat / 2 else (s.reg r).toNat) ∧
    (∃ t, exec (.shl x y) s = .next t ∧ t = { s with v := t.v } ∧
      ∀ r, (t.reg r).toNat =
        if r = 15 then (s.reg x).toNat / 128
        else if r = x then (s.reg x).toNat * 2 % 256
        else (s.reg r).toNat)

/-- 43_alu.md, section 3 (CXNN; one draw even for nn = 0 is the spec's decision D23): Vx becomes a byte whose 1 bits lie
under the mask, the drawn byte under the mask, and exactly one byte is drawn. It holds for every drawn byte: the byte is
a free value. -/
def Obligations.RandomByteUnderMask : Prop :=
  ∀ (s : State) (x : Reg) (nn : Byte),
    ∃ t, exec (.rnd x nn) s = .next t ∧ t = { s with v := t.v, draws := s.draws + 1 } ∧
      (∀ r, r ≠ x → t.reg r = s.reg r) ∧ t.reg x = Config.randomByte s.draws &&& nn ∧
      ∀ b, (t.reg x).getLsbD b = true → nn.getLsbD b = true

/-- 40_cycle.md, section 2 (decision D23, its rule R153): an instruction other than CXNN takes no random byte and its
effect does not depend on the random source: from states that differ only in the draws made, it leaves states that
differ only so. -/
def Obligations.OnlyRndDependsOnTheRandomSource : Prop :=
  ∀ (i : Instr) (s t : State) (d : Nat), (∀ x nn, i ≠ .rnd x nn) → exec i s = .next t →
    t.draws = s.draws ∧ exec i { s with draws := d } = .next { t with draws := d }

/-! ## Index register and memory -/

/-- 44_index_memory.md rule R260: ANNN sets I to its address and changes nothing else. -/
def Obligations.LoadIndexSetsI : Prop :=
  ∀ (s : State) (nnn : BitVec 12),
    (encode (.ldI nnn)).toNat = 0xA000 + nnn.toNat ∧
    ∃ t, exec (.ldI nnn) s = .next t ∧ t = { s with i := t.i } ∧ t.i.toNat = nnn.toNat

/-- 44_index_memory.md, section 1 (FX1E with the spec's decision D9, FX29 with D12): FX1E sets I to the sum mod 4096,
and exactly a sum from 0x1000 up is flagged OutOfBoundsAccess with that sum; FX29 sets I to five times the low nibble of
Vx; nothing else changes, VF included. -/
def Obligations.IndexFromRegister : Prop :=
  ∀ (s : State) (x : Reg),
    (∃ t, exec (.addI x) s = .next t ∧ t = { s with i := t.i, result := t.result } ∧
      t.i.toNat = (s.i.toNat + (s.reg x).toNat) % 4096 ∧
      t.result = if 0x1000 ≤ s.i.toNat + (s.reg x).toNat
        then .status (.outOfBoundsAccess (s.pc - 2) (encode (.addI x)) (s.i.toNat + (s.reg x).toNat))
        else s.result) ∧
    (∃ t, exec (.ldF x) s = .next t ∧ t = { s with i := t.i } ∧ t.i.toNat = 5 * ((s.reg x).toNat % 16))

/-- 44_index_memory.md, section 2 (FX33, with the spec's decisions D7, D8 and the parameter of D15): the decimal digits
of Vx stand at I, I+1, I+2, those above 0xFFF and those into a protected font region dropped; every other byte is as
before, and nothing else changes but the status, which flags a truncated range. -/
def Obligations.StoreDecimalDigits : Prop :=
  ∀ (s : State) (x : Reg), s.i.toNat ≤ 0x0FFF →
    ∃ t, exec (.ldB x) s = .next t ∧ t = { s with mem := t.mem, result := t.result } ∧
      t.result = clampedResult s (encode (.ldB x)) 3 ∧
      ∀ a : Addr, (t.readByte a).toNat =
        if s.params.fontWritable = false ∧ a.val ≤ 0x04F then (s.readByte a).toNat
        else if a.val = s.i.toNat then (s.reg x).toNat / 100
        else if a.val = s.i.toNat + 1 then (s.reg x).toNat / 10 % 10
        else if a.val = s.i.toNat + 2 then (s.reg x).toNat % 10
        else (s.readByte a).toNat

/-- 44_index_memory.md, section 2 (FX55, with the spec's decisions D7, D22 and the parameter of D15): V0 to Vx stand at
I to I + x, those above 0xFFF and those into a protected font region dropped; every other byte is as before, and nothing
else changes, I included, but the status, which flags a truncated range. -/
def Obligations.StoreRegistersAtIndex : Prop :=
  ∀ (s : State) (x : Reg), s.i.toNat ≤ 0x0FFF →
    ∃ t, exec (.storeRegs x) s = .next t ∧ t = { s with mem := t.mem, result := t.result } ∧
      t.result = clampedResult s (encode (.storeRegs x)) (x.val + 1) ∧
      (∀ (r : Reg) (a : Addr), r.val ≤ x.val → a.val = s.i.toNat + r.val →
        (s.params.fontWritable = true ∨ 0x04F < a.val) → t.readByte a = s.reg r) ∧
      (∀ a : Addr, (a.val < s.i.toNat ∨ s.i.toNat + x.val < a.val ∨ (s.params.fontWritable = false ∧ a.val ≤ 0x04F)) →
        t.readByte a = s.readByte a)

/-- 44_index_memory.md, section 2 (FX65, with the spec's decisions D7, D22): V0 to Vx take the bytes at I to I + x, a
register whose address is above 0xFFF keeps its value, and nothing else changes, I and VF (for x < 15) included, but the
status, which flags a truncated range. -/
def Obligations.LoadRegistersFromIndex : Prop :=
  ∀ (s : State) (x : Reg), s.i.toNat ≤ 0x0FFF →
    ∃ t, exec (.loadRegs x) s = .next t ∧ t = { s with v := t.v, result := t.result } ∧
      t.result = clampedResult s (encode (.loadRegs x)) (x.val + 1) ∧
      (∀ (r : Reg) (a : Addr), r.val ≤ x.val → a.val = s.i.toNat + r.val → t.reg r = s.readByte a) ∧
      (∀ r : Reg, (x.val < r.val ∨ 0x0FFF < s.i.toNat + r.val) → t.reg r = s.reg r)

/-- 44_index_memory.md, section 2: what FX55 stores, FX65 with the same x loads back, whatever the registers hold in
between, for every register whose address lies in memory outside a protected font region. -/
def Obligations.LoadBackWhatWasStored : Prop :=
  ∀ (s t u : State) (x r : Reg) (clobbered : Vector Byte 16),
    exec (.storeRegs x) s = .next t → exec (.loadRegs x) { t with v := clobbered } = .next u →
    r.val ≤ x.val → s.i.toNat + r.val ≤ 0x0FFF → (s.params.fontWritable = true ∨ 0x04F < s.i.toNat + r.val) →
    u.reg r = s.reg r

/-! ## Keys and timers -/

/-- 45_keys_timers.md, section 1 (with the spec's decision D13): EX9E and EXA1 skip exactly when the key of the low
nibble of Vx is pressed, or is not, and change nothing else. -/
def Obligations.KeySkips : Prop :=
  ∀ (s : State) (x : Reg) (k : Key), k.val = (s.reg x).toNat % 16 →
    exec (.skp x) s = .next { s with pc := if s.key k = true then s.pc + 2 else s.pc } ∧
    exec (.sknp x) s = .next { s with pc := if s.key k = true then s.pc else s.pc + 2 }

/-- 45_keys_timers.md rules R292, R294, R295: FX07 reads the delay timer into Vx alone; FX15 and FX18 set one timer
from Vx. -/
def Obligations.TimerMoves : Prop :=
  ∀ (s : State) (x : Reg),
    ((encode (.ldVxDT x)).toNat = 0xF007 + x.val * 256 ∧
      ∃ t, exec (.ldVxDT x) s = .next t ∧ t = { s with v := t.v } ∧ ∀ r, t.reg r = if r = x then s.dt else s.reg r) ∧
    ((encode (.ldDTVx x)).toNat = 0xF015 + x.val * 256 ∧
      exec (.ldDTVx x) s = .next { s with dt := s.reg x }) ∧
    ((encode (.ldSTVx x)).toNat = 0xF018 + x.val * 256 ∧
      exec (.ldSTVx x) s = .next { s with st := s.reg x })

/-- 45_keys_timers.md, section 2 (FX0A, with the spec's decisions D14 and D27): the wait for Vx begins, an earlier press
does not count, and nothing else changes in this cycle. -/
def Obligations.KeyWaitBegins : Prop :=
  ∀ (s : State) (x : Reg), exec (.ldVxK x) s = .next { s with wait := some x, latch := none }

/-- 45_keys_timers.md, section 2 (source example W10; decision D14): from a key wait, any number of cycles change nothing
(each returns Waiting), and after `setKey(k, true)` the next cycle ends the wait with k in Vx and PC where it was. -/
def Obligations.KeyWaitEndsWithThePressedKey : Prop :=
  ∀ (s : State) (x : Reg) (k : Key) (n : Nat),
    s.halt = none → s.wait = some x → s.latch = none →
    s.schedule = List.replicate n .cycle ++ [.setKey k.val true, .cycle] →
    (∀ m, 0 < m → m ≤ n →
      Host.Core.run Sys2Proof.core m s =
        .next { s with schedule := s.schedule.drop m, result := .status .waiting }) ∧
    ∃ t, Host.Core.run Sys2Proof.core (n + 2) s = .next t ∧
      t = { s with v := t.v, keys := t.keys, wait := none, schedule := [], result := .status .ok } ∧
      (∀ r, (t.reg r).toNat = if r = x then k.val else (s.reg r).toNat) ∧
      (∀ l, t.key l = if l = k then true else s.key l)

/-! ## The host's operations -/

/-- 60_exceptions.md rule R350: `tick()` lowers each nonzero timer by one and changes nothing else, in every state. -/
def Obligations.TickLowersTheTimers : Prop :=
  ∀ s : State, s.nextCall = .tick →
    ∃ t, step s = .next t ∧
      t = { s with dt := t.dt, st := t.st, schedule := s.schedule.tail, result := .nothing } ∧
      t.dt.toNat = (if 0 < s.dt.toNat then s.dt.toNat - 1 else 0) ∧
      t.st.toNat = (if 0 < s.st.toNat then s.st.toNat - 1 else 0)

/-- 60_exceptions.md, section 3 (decision D25 for waiting and halted states): after n ticks each timer has fallen by n,
never below zero, and nothing else of the block has changed. -/
def Obligations.TicksCountDownToZero : Prop :=
  ∀ (s : State) (n : Nat), s.schedule = List.replicate n .tick →
    ∃ t, Host.Core.run Sys2Proof.core n s = .next t ∧
      t = { s with dt := t.dt, st := t.st, schedule := [], result := t.result } ∧
      t.dt.toNat = s.dt.toNat - n ∧ t.st.toNat = s.st.toNat - n

/-- 60_exceptions.md, section 4 (decision D14, its rule R352): `setKey(k, pressed)` writes K[k], latches k exactly for a
press during a wait with nothing latched yet, and changes nothing else. -/
def Obligations.SetKeyWritesAndLatches : Prop :=
  ∀ (s : State) (k : Key) (pressed : Bool), s.nextCall = .setKey k.val pressed →
    ∃ t, step s = .next t ∧
      t = { s with keys := t.keys, latch := t.latch, schedule := s.schedule.tail, result := .nothing } ∧
      (∀ l, t.key l = if l = k then pressed else s.key l) ∧
      t.latch = (if pressed = true ∧ (∃ x, s.wait = some x) ∧ s.latch = none then some k else s.latch)

/-- 10_state.md, section 5, and 70_reset_and_hazards.md, section 1 (decision D17 for everything but memory): after
`reset()` in any state every element of the block holds its reset value. -/
def Obligations.ResetLeavesTheResetValues : Prop :=
  ∀ s : State, s.nextCall = .reset →
    ∃ t, step s = .next t ∧
      (∀ a : Addr, t.readByte a = if h : a.val < 80 then s.params.font[a.val] else 0) ∧
      (∀ r, t.reg r = 0) ∧ t.i = 0 ∧ t.pc = 0x200 ∧ t.sp = 0 ∧ (∀ k, t.entry k = 0) ∧ t.dt = 0 ∧ t.st = 0 ∧
      (∀ c r, t.cell c r = false) ∧ (∀ k, t.key k = false) ∧ t.wait = none ∧ t.latch = none ∧ t.halt = none ∧
      t.params = s.params ∧ t.draws = s.draws ∧ t.schedule = s.schedule.tail ∧ t.result = .nothing

/-- 70_reset_and_hazards.md, section 1 (rules R383 and R384, with the spec's decision D16): a ROM of at most 3584 bytes
stands at 0x200, the font below 0x050, zero elsewhere, and everything else is as after reset. -/
def Obligations.LoadProgramPlacesTheBytes : Prop :=
  ∀ (s : State) (bytes : List Byte), s.nextCall = .loadProgram bytes → bytes.length ≤ 3584 →
    ∃ t, step s = .next t ∧
      t = { State.reset with
        mem := t.mem, params := s.params, draws := s.draws, schedule := s.schedule.tail, result := .loaded } ∧
      (∀ a : Addr, t.readByte a =
        if h : a.val < 80 then s.params.font[a.val]
        else if 0x200 ≤ a.val ∧ a.val < 0x200 + bytes.length then bytes.getD (a.val - 0x200) 0
        else 0)

/-- 70_reset_and_hazards.md rule R385: a ROM above 3584 bytes leaves the whole state as before the call. -/
def Obligations.TooLargeRomChangesNothing : Prop :=
  ∀ (s : State) (bytes : List Byte), s.nextCall = .loadProgram bytes → 3584 < bytes.length →
    step s = .next { s with schedule := s.schedule.tail, result := .romTooLarge }

/-- 10_state.md rules R54, R55: `getFramebuffer()` returns a copy of FB, `isSoundActive()` whether ST > 0, and neither
changes anything. -/
def Obligations.ReadingScreenAndSoundChangesNothing : Prop :=
  ∀ s : State,
    (s.nextCall = .getFramebuffer →
      step s = .next { s with schedule := s.schedule.tail, result := .framebuffer s.fb }) ∧
    (s.nextCall = .isSoundActive →
      step s = .next { s with schedule := s.schedule.tail, result := .sound (decide (0 < s.st.toNat)) })

/-- 10_state.md, section 6 (decision D29, its rule R56): `snapshot()` returns a copy of the whole block and changes
nothing. -/
def Obligations.SnapshotCopiesTheBlock : Prop :=
  ∀ s : State, s.nextCall = .snapshot →
    step s = .next { s with schedule := s.schedule.tail, result := .snapshot s.toBlock s.params }

/-! ## Frames -/

/-- 10_state.md, section 1 (rule R31, marked derived): an instruction leaves every general register but its own
destinations, VF where it writes it as a flag, and V0 to Vx for FX65. -/
def Obligations.OtherGeneralRegistersAreKept : Prop :=
  ∀ (i : Instr) (s t : State) (r : Reg), exec i s = .next t → writesReg i r = false → t.reg r = s.reg r

/-- 10_state.md, section 1 (rule R32 with the spec's decision D2 on the order of the two writes, assumption log 13): VF
is written as a flag by 8XY4, 8XY5, 8XY6, 8XY7, 8XYE and DXYN only, and ends as 0 or 1 there, for x = 15 too because the
flag is written last; no other instruction changes VF but as its ordinary destination. -/
def Obligations.OnlyTheFlagInstructionsWriteVfAsAFlag : Prop :=
  ∀ (i : Instr) (s t : State), exec i s = .next t →
    (writesFlag i = true → t.reg 15 = 0 ∨ t.reg 15 = 1) ∧
    (writesFlag i = false → writesReg i 15 = false → t.reg 15 = s.reg 15)

/-- 20_memory.md, sections 1 to 3 (with the spec's decisions D7 and D15): every byte outside the addresses an FX33 or
FX55 stores to, the span the meaning itself uses, is as before; so is every byte of a protected font region; and an
instruction that stores nothing leaves every byte. -/
def Obligations.OtherMemoryIsKept : Prop :=
  ∀ (i : Instr) (s t : State) (a : Addr), exec i s = .next t →
    (a ∉ s.span (storeCount i) ∨ (s.params.fontWritable = false ∧ a.val ≤ 0x04F)) → t.readByte a = s.readByte a

/-- 44_index_memory.md, section 3, and 10_state.md, sections 2 and 3: I is written only by ANNN, FX1E, FX29; DT only by
FX15; ST only by FX18; the stack and SP only by 2NNN and 00EE. -/
def Obligations.IndexTimersAndStackAreKept : Prop :=
  ∀ (i : Instr) (s t : State), exec i s = .next t →
    ((∀ nnn, i ≠ .ldI nnn) → (∀ x, i ≠ .addI x) → (∀ x, i ≠ .ldF x) → t.i = s.i) ∧
    ((∀ x, i ≠ .ldDTVx x) → t.dt = s.dt) ∧
    ((∀ x, i ≠ .ldSTVx x) → t.st = s.st) ∧
    ((∀ nnn, i ≠ .call nnn) → t.stack = s.stack) ∧
    ((∀ nnn, i ≠ .call nnn) → i ≠ .ret → t.sp = s.sp)

/-- 10_state.md, sections 3 and 4, and 40_cycle.md, section 2: the framebuffer is written only by 00E0 and DXYN, the
key wait only by FX0A, HALT only by 2NNN and 00EE; no instruction writes the keypad, the parameters or the schedule, and
a latched press is dropped only by FX0A. -/
def Obligations.ScreenAndControlStateAreKept : Prop :=
  ∀ (i : Instr) (s t : State), exec i s = .next t →
    (i ≠ .cls → (∀ x y n, i ≠ .drw x y n) → t.fb = s.fb) ∧
    ((∀ x, i ≠ .ldVxK x) → t.wait = s.wait ∧ t.latch = s.latch) ∧
    ((∀ nnn, i ≠ .call nnn) → i ≠ .ret → t.halt = s.halt) ∧
    t.keys = s.keys ∧ t.params = s.params ∧ t.schedule = s.schedule

/-- 40_cycle.md, section 2 (rule R150, marked derived): the effect each instruction has on PC, row by row. Continue:
PC stays at the pre-advance. Skip: PC is 2 further exactly when the skip's own condition holds (the key skips' low nibble
is the spec's decision D13). Jump: PC is the target (BNNN's sum not reduced, decision D5; the slot popped, decision D26).
Halt: 2NNN with SP = 16 and 00EE with SP = 0 leave PC and set HALT (decision D6), and no other instruction changes HALT. -/
def Obligations.OneControlFlowEffect : Prop :=
  ∀ (i : Instr) (s t : State), exec i s = .next t →
    (pcEffect i = .goOn → t.pc = s.pc) ∧
    (pcEffect i = .skip → t.pc = s.pc ∨ t.pc = s.pc + 2) ∧
    (∀ x nn, i = .seImm x nn → t.pc = if s.reg x = nn then s.pc + 2 else s.pc) ∧
    (∀ x nn, i = .sneImm x nn → t.pc = if s.reg x = nn then s.pc else s.pc + 2) ∧
    (∀ x y, i = .seReg x y → t.pc = if s.reg x = s.reg y then s.pc + 2 else s.pc) ∧
    (∀ x y, i = .sneReg x y → t.pc = if s.reg x = s.reg y then s.pc else s.pc + 2) ∧
    (∀ (x : Reg) (k : Key), i = .skp x → k.val = (s.reg x).toNat % 16 →
      t.pc = if s.key k = true then s.pc + 2 else s.pc) ∧
    (∀ (x : Reg) (k : Key), i = .sknp x → k.val = (s.reg x).toNat % 16 →
      t.pc = if s.key k = true then s.pc else s.pc + 2) ∧
    (∀ nnn, i = .jp nnn → t.pc.toNat = nnn.toNat) ∧
    (∀ nnn, i = .jpV0 nnn → t.pc.toNat = nnn.toNat + (s.reg 0).toNat) ∧
    (∀ nnn, i = .call nnn → s.sp.val < 16 → t.pc.toNat = nnn.toNat) ∧
    (∀ k : Fin 16, i = .ret → s.sp.val = k.val + 1 → t.pc = s.entry k) ∧
    (((∃ nnn, i = .call nnn) ∧ s.sp.val = 16) ∨ (i = .ret ∧ s.sp.val = 0) → t.pc = s.pc ∧ t.halt.isSome = true) ∧
    (t.halt ≠ s.halt → ((∃ nnn, i = .call nnn) ∧ s.sp.val = 16) ∨ (i = .ret ∧ s.sp.val = 0))

/-! ## Whole-machine rules -/

/-- A headline result: every step, of any host operation in any state, keeps the invariant of `State.Inv` (memory's
canonical form; the ranges of I, PC and the stack entries; LATCH only during a wait; HALT and WAIT never both; the halt
cause fitting SP and PC). -/
def Obligations.EveryStepKeepsTheInvariant : Prop := ∀ s t : State, s.Inv → step s = .next t → t.Inv

/-- 10_state.md, section 5: the state after reset meets the invariant, and its font region holds FONT_TABLE, whatever
FONT_REGION_WRITABLE is. (Which bytes FONT_TABLE has is no part of this: assumption log 5.) -/
def Obligations.ResetMeetsTheInvariant : Prop :=
  State.reset.Inv ∧ State.reset.FontIntact ∧
  ∀ (a : Addr) (h : a.val < 80), State.reset.readByte a = State.reset.params.font[a.val]

/-- 20_memory.md, section 1 (rule R72 under R79's parameter, decision D15) and 00_scope.md, section 3: no step changes
the parameters, and with FONT_REGION_WRITABLE false the font table is never mutated, whatever runs and whatever the host
calls. -/
def Obligations.ProtectedFontIsNeverMutated : Prop :=
  ∀ s t : State, step s = .next t → t.params = s.params ∧ (s.FontIntact → t.FontIntact)

/-- 60_exceptions.md, section 1 (decision D6, its rule R333): while halted, every operation but `reset()` and
`loadProgram` leaves HALT, and leaves PC, the registers, I, the stack, the framebuffer and memory as well. -/
def Obligations.HaltPersistsUntilResetOrLoad : Prop :=
  ∀ (s t : State) (c : Cause), s.halt = some c → step s = .next t →
    s.nextCall ≠ .reset → (∀ bytes, s.nextCall ≠ .loadProgram bytes) →
    t.halt = some c ∧ t.pc = s.pc ∧ t.v = s.v ∧ t.i = s.i ∧ t.sp = s.sp ∧ t.stack = s.stack ∧ t.fb = s.fb ∧ t.mem = s.mem

/-- 40_cycle.md, section 2 (rule R151, marked derived): between resets and loads only a cycle changes V, I, PC, SP, S,
FB, WAIT and HALT; only `tick()` and a cycle change the timers; only `setKey` changes K; only `setKey` and a cycle change
LATCH. That only a cycle changes memory is 20_memory.md, section 4. A load that fails is
`TooLargeRomChangesNothing`. -/
def Obligations.WhatEachHostOperationMayChange : Prop :=
  ∀ s t : State, step s = .next t → s.nextCall ≠ .reset → (∀ bytes, s.nextCall ≠ .loadProgram bytes) →
    (s.nextCall ≠ .cycle →
      t.v = s.v ∧ t.i = s.i ∧ t.pc = s.pc ∧ t.sp = s.sp ∧ t.stack = s.stack ∧ t.fb = s.fb ∧ t.wait = s.wait ∧
        t.halt = s.halt ∧ t.mem = s.mem) ∧
    (s.nextCall ≠ .cycle → s.nextCall ≠ .tick → t.dt = s.dt ∧ t.st = s.st) ∧
    ((∀ k p, s.nextCall ≠ .setKey k p) → t.keys = s.keys) ∧
    (s.nextCall ≠ .cycle → (∀ k p, s.nextCall ≠ .setKey k p) → t.latch = s.latch)

/-- 60_exceptions.md, section 2 (rule R336, marked derived): the statuses an instruction can raise: 00EE only
StackUnderflow, 2NNN only StackOverflow, the clamped accesses and FX1E only OutOfBoundsAccess, and no other instruction
raises anything. -/
def Obligations.StatusesOfEachInstruction : Prop :=
  ∀ (i : Instr) (s t : State), exec i s = .next t → t.result ≠ s.result →
    (i = .ret ∧ ∃ a, t.result = .status (.stackUnderflow a (encode i)) ∧ s.sp.val = 0) ∨
    (∃ nnn a, i = .call nnn ∧ t.result = .status (.stackOverflow a (encode i)) ∧ s.sp.val = 16) ∨
    (((∃ x y n, i = .drw x y n) ∨ ∃ x, i = .addI x ∨ i = .ldB x ∨ i = .storeRegs x ∨ i = .loadRegs x) ∧
      ∃ ea, t.result = .status (.outOfBoundsAccess (s.pc - 2) (encode i) ea) ∧ 0x1000 ≤ ea)
end

