-- ==== Sys2Proof/Laws/Decode.lean ====
section
/-! SUPPORT. The fields of the words the encoder builds, and the rows those words select (30_encoding.md rules R111 to
R113). Words and fields are compared as numbers, so that `omega` settles them. -/

namespace Sys2Proof

/-! ## Words as numbers -/

theorem toNat_append {v w : Nat} (a : BitVec v) (b : BitVec w) : (a ++ b).toNat = a.toNat * 2 ^ w + b.toNat := by
  rw [BitVec.toNat_append, ← Nat.shiftLeft_add_eq_or_of_lt b.isLt, Nat.shiftLeft_eq]

theorem toNat_wordA (c : BitVec 4) (nnn : BitVec 12) : (wordA c nnn).toNat = c.toNat * 4096 + nnn.toNat :=
  toNat_append c nnn

theorem toNat_wordRI (c : BitVec 4) (x : Reg) (nn : Byte) :
    (wordRI c x nn).toNat = c.toNat * 4096 + x.val * 256 + nn.toNat := by
  have h : (wordRI c x nn).toNat = (c ++ (BitVec.ofFin x : BitVec 4) ++ nn).toNat := rfl
  rw [h, toNat_append, toNat_append]
  simp only [BitVec.toNat_ofFin]
  omega

theorem toNat_wordRRN (c : BitVec 4) (x y : Reg) (n : BitVec 4) :
    (wordRRN c x y n).toNat = c.toNat * 4096 + x.val * 256 + y.val * 16 + n.toNat := by
  have h : (wordRRN c x y n).toNat =
    (c ++ (BitVec.ofFin x : BitVec 4) ++ (BitVec.ofFin y : BitVec 4) ++ n).toNat := rfl
  rw [h, toNat_append, toNat_append, toNat_append]
  simp only [BitVec.toNat_ofFin]
  omega

theorem toNat_wordOfBytes (hi lo : Byte) : (wordOfBytes hi lo).toNat = hi.toNat * 256 + lo.toNat := toNat_append hi lo

/-! ## Fields as numbers -/

theorem toNat_fieldClass (op : Word) : (fieldClass op).toNat = op.toNat / 4096 := by
  have := op.isLt
  simp [fieldClass, Nat.shiftRight_eq_div_pow]; omega

theorem val_fieldX (op : Word) : (fieldX op).val = op.toNat / 256 % 16 := by
  simp [fieldX, Nat.shiftRight_eq_div_pow]

theorem val_fieldY (op : Word) : (fieldY op).val = op.toNat / 16 % 16 := by
  simp [fieldY, Nat.shiftRight_eq_div_pow]

theorem toNat_fieldN (op : Word) : (fieldN op).toNat = op.toNat % 16 := by simp [fieldN]

theorem toNat_fieldNN (op : Word) : (fieldNN op).toNat = op.toNat % 256 := by simp [fieldNN]

theorem toNat_fieldNNN (op : Word) : (fieldNNN op).toNat = op.toNat % 4096 := by simp [fieldNNN]

/-! ## Fields of a built word -/

@[simp] theorem fieldClass_wordA (c : BitVec 4) (nnn : BitVec 12) : fieldClass (wordA c nnn) = c := by
  apply BitVec.eq_of_toNat_eq; rw [toNat_fieldClass, toNat_wordA]; omega

@[simp] theorem fieldNNN_wordA (c : BitVec 4) (nnn : BitVec 12) : fieldNNN (wordA c nnn) = nnn := by
  apply BitVec.eq_of_toNat_eq; rw [toNat_fieldNNN, toNat_wordA]; omega

@[simp] theorem fieldClass_wordRI (c : BitVec 4) (x : Reg) (nn : Byte) : fieldClass (wordRI c x nn) = c := by
  apply BitVec.eq_of_toNat_eq; rw [toNat_fieldClass, toNat_wordRI]; omega

@[simp] theorem fieldX_wordRI (c : BitVec 4) (x : Reg) (nn : Byte) : fieldX (wordRI c x nn) = x := by
  apply Fin.ext; rw [val_fieldX, toNat_wordRI]; omega

@[simp] theorem fieldNN_wordRI (c : BitVec 4) (x : Reg) (nn : Byte) : fieldNN (wordRI c x nn) = nn := by
  apply BitVec.eq_of_toNat_eq; rw [toNat_fieldNN, toNat_wordRI]; omega

@[simp] theorem fieldClass_wordRRN (c : BitVec 4) (x y : Reg) (n : BitVec 4) : fieldClass (wordRRN c x y n) = c := by
  apply BitVec.eq_of_toNat_eq; rw [toNat_fieldClass, toNat_wordRRN]; omega

@[simp] theorem fieldX_wordRRN (c : BitVec 4) (x y : Reg) (n : BitVec 4) : fieldX (wordRRN c x y n) = x := by
  apply Fin.ext; rw [val_fieldX, toNat_wordRRN]; omega

@[simp] theorem fieldY_wordRRN (c : BitVec 4) (x y : Reg) (n : BitVec 4) : fieldY (wordRRN c x y n) = y := by
  apply Fin.ext; rw [val_fieldY, toNat_wordRRN]; omega

@[simp] theorem fieldN_wordRRN (c : BitVec 4) (x y : Reg) (n : BitVec 4) : fieldN (wordRRN c x y n) = n := by
  apply BitVec.eq_of_toNat_eq; rw [toNat_fieldN, toNat_wordRRN]; omega

/-! ## A word is built from its own fields -/

theorem wordA_fields (op : Word) : wordA (fieldClass op) (fieldNNN op) = op := by
  apply BitVec.eq_of_toNat_eq; rw [toNat_wordA, toNat_fieldClass, toNat_fieldNNN]; omega

theorem wordRI_fields (op : Word) : wordRI (fieldClass op) (fieldX op) (fieldNN op) = op := by
  apply BitVec.eq_of_toNat_eq; rw [toNat_wordRI, toNat_fieldClass, val_fieldX, toNat_fieldNN]; omega

theorem wordRRN_fields (op : Word) : wordRRN (fieldClass op) (fieldX op) (fieldY op) (fieldN op) = op := by
  apply BitVec.eq_of_toNat_eq
  rw [toNat_wordRRN, toNat_fieldClass, val_fieldX, val_fieldY, toNat_fieldN]; omega

/-! ## What the masks of rule R113 keep of a word -/

/-- The bitwise and of two words built in one format is built of the fields' ands. -/
theorem wordA_and (c d : BitVec 4) (p q : BitVec 12) : wordA c p &&& wordA d q = wordA (c &&& d) (p &&& q) :=
  BitVec.and_append

theorem wordRI_and (c d : BitVec 4) (x z : Reg) (p q : Byte) :
    wordRI c x p &&& wordRI d z q =
      wordRI (c &&& d) ((BitVec.ofFin x : BitVec 4) &&& BitVec.ofFin z).toFin (p &&& q) := by
  unfold wordRI
  exact BitVec.and_append.trans (congrArg (· ++ (p &&& q)) BitVec.and_append)

theorem wordRRN_and (c d : BitVec 4) (x z y u : Reg) (p q : BitVec 4) :
    wordRRN c x y p &&& wordRRN d z u q =
      wordRRN (c &&& d) ((BitVec.ofFin x : BitVec 4) &&& BitVec.ofFin z).toFin
        ((BitVec.ofFin y : BitVec 4) &&& BitVec.ofFin u).toFin (p &&& q) := by
  unfold wordRRN
  exact BitVec.and_append.trans (congrArg (· ++ (p &&& q)) (BitVec.and_append.trans
    (congrArg (· ++ ((BitVec.ofFin y : BitVec 4) &&& BitVec.ofFin u)) BitVec.and_append)))

theorem nibble_and_F (c : BitVec 4) : c &&& 0xF = c := BitVec.and_allOnes

theorem byte_and_FF (b : Byte) : b &&& 0xFF = b := BitVec.and_allOnes

theorem reg_and_zero (x : Reg) : ((BitVec.ofFin x : BitVec 4) &&& BitVec.ofFin 0).toFin = 0 := by
  have h : (BitVec.ofFin x : BitVec 4) &&& BitVec.ofFin 0 = 0#4 := BitVec.and_zero
  rw [h]; rfl

theorem word_and_F000 (op : Word) : op &&& 0xF000 = wordA (fieldClass op) 0 := by
  have h := wordA_and (fieldClass op) 0xF (fieldNNN op) 0
  rw [wordA_fields, nibble_and_F] at h
  exact h.trans (congrArg (wordA (fieldClass op)) BitVec.and_zero)

theorem word_and_F00F (op : Word) : op &&& 0xF00F = wordRRN (fieldClass op) 0 0 (fieldN op) := by
  have h := wordRRN_and (fieldClass op) 0xF (fieldX op) 0 (fieldY op) 0 (fieldN op) 0xF
  rwa [wordRRN_fields, nibble_and_F, nibble_and_F, reg_and_zero, reg_and_zero] at h

theorem word_and_F0FF (op : Word) : op &&& 0xF0FF = wordRI (fieldClass op) 0 (fieldNN op) := by
  have h := wordRI_and (fieldClass op) 0xF (fieldX op) 0 (fieldNN op) 0xFF
  rwa [wordRI_fields, nibble_and_F, byte_and_FF, reg_and_zero] at h

/-! ## Bytes -/

@[simp] theorem wordOfBytes_high_low (op : Word) : wordOfBytes (wordHigh op) (wordLow op) = op := by
  apply BitVec.eq_of_toNat_eq
  have := op.isLt
  rw [toNat_wordOfBytes]
  simp [wordHigh, wordLow, Nat.shiftRight_eq_div_pow]
  omega

end Sys2Proof
end

