-- ==== Sys2Proof/Laws/State.lean ====
section
/-! SUPPORT. What each named update does to each field and to each accessor of the state: true by unfolding the update
once, so that no later proof does. -/

namespace Sys2Proof.Machine

variable (s : State)

/-! ## setReg -/

@[simp] theorem State.setReg_v (r : Reg) (b : Byte) : (s.setReg r b).v = s.v.set r.val b := rfl
@[simp] theorem State.setReg_i (r : Reg) (b : Byte) : (s.setReg r b).i = s.i := rfl
@[simp] theorem State.setReg_pc (r : Reg) (b : Byte) : (s.setReg r b).pc = s.pc := rfl
@[simp] theorem State.setReg_sp (r : Reg) (b : Byte) : (s.setReg r b).sp = s.sp := rfl
@[simp] theorem State.setReg_stack (r : Reg) (b : Byte) : (s.setReg r b).stack = s.stack := rfl
@[simp] theorem State.setReg_dt (r : Reg) (b : Byte) : (s.setReg r b).dt = s.dt := rfl
@[simp] theorem State.setReg_st (r : Reg) (b : Byte) : (s.setReg r b).st = s.st := rfl
@[simp] theorem State.setReg_fb (r : Reg) (b : Byte) : (s.setReg r b).fb = s.fb := rfl
@[simp] theorem State.setReg_keys (r : Reg) (b : Byte) : (s.setReg r b).keys = s.keys := rfl
@[simp] theorem State.setReg_mem (r : Reg) (b : Byte) : (s.setReg r b).mem = s.mem := rfl
@[simp] theorem State.setReg_wait (r : Reg) (b : Byte) : (s.setReg r b).wait = s.wait := rfl
@[simp] theorem State.setReg_latch (r : Reg) (b : Byte) : (s.setReg r b).latch = s.latch := rfl
@[simp] theorem State.setReg_halt (r : Reg) (b : Byte) : (s.setReg r b).halt = s.halt := rfl
@[simp] theorem State.setReg_params (r : Reg) (b : Byte) : (s.setReg r b).params = s.params := rfl
@[simp] theorem State.setReg_result (r : Reg) (b : Byte) : (s.setReg r b).result = s.result := rfl
@[simp] theorem State.setReg_draws (r : Reg) (b : Byte) : (s.setReg r b).draws = s.draws := rfl
@[simp] theorem State.setReg_schedule (r : Reg) (b : Byte) : (s.setReg r b).schedule = s.schedule := rfl
@[simp] theorem State.setReg_readByte (r : Reg) (b : Byte) (a : Addr) : (s.setReg r b).readByte a = s.readByte a := rfl
@[simp] theorem State.setReg_cell (r : Reg) (b : Byte) (c : Fin 64) (l : Fin 32) : (s.setReg r b).cell c l = s.cell c l := rfl
@[simp] theorem State.setReg_key (r : Reg) (b : Byte) (k : Key) : (s.setReg r b).key k = s.key k := rfl
@[simp] theorem State.setReg_entry (r : Reg) (b : Byte) (k : Fin 16) : (s.setReg r b).entry k = s.entry k := rfl
@[simp] theorem State.setReg_image (r : Reg) (b : Byte) : (s.setReg r b).image = s.image := rfl
@[simp] theorem State.setReg_writable (r : Reg) (b : Byte) (a : Addr) : (s.setReg r b).writable a = s.writable a := rfl
@[simp] theorem State.setReg_instrAddr (r : Reg) (b : Byte) : (s.setReg r b).instrAddr = s.instrAddr := rfl

/-! ## setI -/

@[simp] theorem State.setI_v (w : Word) : (s.setI w).v = s.v := rfl
@[simp] theorem State.setI_i (w : Word) : (s.setI w).i = w := rfl
@[simp] theorem State.setI_pc (w : Word) : (s.setI w).pc = s.pc := rfl
@[simp] theorem State.setI_sp (w : Word) : (s.setI w).sp = s.sp := rfl
@[simp] theorem State.setI_stack (w : Word) : (s.setI w).stack = s.stack := rfl
@[simp] theorem State.setI_dt (w : Word) : (s.setI w).dt = s.dt := rfl
@[simp] theorem State.setI_st (w : Word) : (s.setI w).st = s.st := rfl
@[simp] theorem State.setI_fb (w : Word) : (s.setI w).fb = s.fb := rfl
@[simp] theorem State.setI_keys (w : Word) : (s.setI w).keys = s.keys := rfl
@[simp] theorem State.setI_mem (w : Word) : (s.setI w).mem = s.mem := rfl
@[simp] theorem State.setI_wait (w : Word) : (s.setI w).wait = s.wait := rfl
@[simp] theorem State.setI_latch (w : Word) : (s.setI w).latch = s.latch := rfl
@[simp] theorem State.setI_halt (w : Word) : (s.setI w).halt = s.halt := rfl
@[simp] theorem State.setI_params (w : Word) : (s.setI w).params = s.params := rfl
@[simp] theorem State.setI_result (w : Word) : (s.setI w).result = s.result := rfl
@[simp] theorem State.setI_draws (w : Word) : (s.setI w).draws = s.draws := rfl
@[simp] theorem State.setI_schedule (w : Word) : (s.setI w).schedule = s.schedule := rfl
@[simp] theorem State.setI_reg (w : Word) (r : Reg) : (s.setI w).reg r = s.reg r := rfl
@[simp] theorem State.setI_readByte (w : Word) (a : Addr) : (s.setI w).readByte a = s.readByte a := rfl
@[simp] theorem State.setI_cell (w : Word) (c : Fin 64) (r : Fin 32) : (s.setI w).cell c r = s.cell c r := rfl
@[simp] theorem State.setI_key (w : Word) (k : Key) : (s.setI w).key k = s.key k := rfl
@[simp] theorem State.setI_entry (w : Word) (k : Fin 16) : (s.setI w).entry k = s.entry k := rfl
@[simp] theorem State.setI_image (w : Word) : (s.setI w).image = s.image := rfl
@[simp] theorem State.setI_writable (w : Word) (a : Addr) : (s.setI w).writable a = s.writable a := rfl
@[simp] theorem State.setI_instrAddr (w : Word) : (s.setI w).instrAddr = s.instrAddr := rfl

/-! ## setPc -/

@[simp] theorem State.setPc_v (w : Word) : (s.setPc w).v = s.v := rfl
@[simp] theorem State.setPc_i (w : Word) : (s.setPc w).i = s.i := rfl
@[simp] theorem State.setPc_pc (w : Word) : (s.setPc w).pc = w := rfl
@[simp] theorem State.setPc_sp (w : Word) : (s.setPc w).sp = s.sp := rfl
@[simp] theorem State.setPc_stack (w : Word) : (s.setPc w).stack = s.stack := rfl
@[simp] theorem State.setPc_dt (w : Word) : (s.setPc w).dt = s.dt := rfl
@[simp] theorem State.setPc_st (w : Word) : (s.setPc w).st = s.st := rfl
@[simp] theorem State.setPc_fb (w : Word) : (s.setPc w).fb = s.fb := rfl
@[simp] theorem State.setPc_keys (w : Word) : (s.setPc w).keys = s.keys := rfl
@[simp] theorem State.setPc_mem (w : Word) : (s.setPc w).mem = s.mem := rfl
@[simp] theorem State.setPc_wait (w : Word) : (s.setPc w).wait = s.wait := rfl
@[simp] theorem State.setPc_latch (w : Word) : (s.setPc w).latch = s.latch := rfl
@[simp] theorem State.setPc_halt (w : Word) : (s.setPc w).halt = s.halt := rfl
@[simp] theorem State.setPc_params (w : Word) : (s.setPc w).params = s.params := rfl
@[simp] theorem State.setPc_result (w : Word) : (s.setPc w).result = s.result := rfl
@[simp] theorem State.setPc_draws (w : Word) : (s.setPc w).draws = s.draws := rfl
@[simp] theorem State.setPc_schedule (w : Word) : (s.setPc w).schedule = s.schedule := rfl
@[simp] theorem State.setPc_reg (w : Word) (r : Reg) : (s.setPc w).reg r = s.reg r := rfl
@[simp] theorem State.setPc_readByte (w : Word) (a : Addr) : (s.setPc w).readByte a = s.readByte a := rfl
@[simp] theorem State.setPc_cell (w : Word) (c : Fin 64) (r : Fin 32) : (s.setPc w).cell c r = s.cell c r := rfl
@[simp] theorem State.setPc_key (w : Word) (k : Key) : (s.setPc w).key k = s.key k := rfl
@[simp] theorem State.setPc_entry (w : Word) (k : Fin 16) : (s.setPc w).entry k = s.entry k := rfl
@[simp] theorem State.setPc_image (w : Word) : (s.setPc w).image = s.image := rfl
@[simp] theorem State.setPc_writable (w : Word) (a : Addr) : (s.setPc w).writable a = s.writable a := rfl

/-! ## setDt -/

@[simp] theorem State.setDt_v (b : Byte) : (s.setDt b).v = s.v := rfl
@[simp] theorem State.setDt_i (b : Byte) : (s.setDt b).i = s.i := rfl
@[simp] theorem State.setDt_pc (b : Byte) : (s.setDt b).pc = s.pc := rfl
@[simp] theorem State.setDt_sp (b : Byte) : (s.setDt b).sp = s.sp := rfl
@[simp] theorem State.setDt_stack (b : Byte) : (s.setDt b).stack = s.stack := rfl
@[simp] theorem State.setDt_dt (b : Byte) : (s.setDt b).dt = b := rfl
@[simp] theorem State.setDt_st (b : Byte) : (s.setDt b).st = s.st := rfl
@[simp] theorem State.setDt_fb (b : Byte) : (s.setDt b).fb = s.fb := rfl
@[simp] theorem State.setDt_keys (b : Byte) : (s.setDt b).keys = s.keys := rfl
@[simp] theorem State.setDt_mem (b : Byte) : (s.setDt b).mem = s.mem := rfl
@[simp] theorem State.setDt_wait (b : Byte) : (s.setDt b).wait = s.wait := rfl
@[simp] theorem State.setDt_latch (b : Byte) : (s.setDt b).latch = s.latch := rfl
@[simp] theorem State.setDt_halt (b : Byte) : (s.setDt b).halt = s.halt := rfl
@[simp] theorem State.setDt_params (b : Byte) : (s.setDt b).params = s.params := rfl
@[simp] theorem State.setDt_result (b : Byte) : (s.setDt b).result = s.result := rfl
@[simp] theorem State.setDt_draws (b : Byte) : (s.setDt b).draws = s.draws := rfl
@[simp] theorem State.setDt_schedule (b : Byte) : (s.setDt b).schedule = s.schedule := rfl
@[simp] theorem State.setDt_reg (b : Byte) (r : Reg) : (s.setDt b).reg r = s.reg r := rfl
@[simp] theorem State.setDt_readByte (b : Byte) (a : Addr) : (s.setDt b).readByte a = s.readByte a := rfl
@[simp] theorem State.setDt_cell (b : Byte) (c : Fin 64) (r : Fin 32) : (s.setDt b).cell c r = s.cell c r := rfl
@[simp] theorem State.setDt_key (b : Byte) (k : Key) : (s.setDt b).key k = s.key k := rfl
@[simp] theorem State.setDt_entry (b : Byte) (k : Fin 16) : (s.setDt b).entry k = s.entry k := rfl
@[simp] theorem State.setDt_image (b : Byte) : (s.setDt b).image = s.image := rfl
@[simp] theorem State.setDt_writable (b : Byte) (a : Addr) : (s.setDt b).writable a = s.writable a := rfl
@[simp] theorem State.setDt_instrAddr (b : Byte) : (s.setDt b).instrAddr = s.instrAddr := rfl

/-! ## setSt -/

@[simp] theorem State.setSt_v (b : Byte) : (s.setSt b).v = s.v := rfl
@[simp] theorem State.setSt_i (b : Byte) : (s.setSt b).i = s.i := rfl
@[simp] theorem State.setSt_pc (b : Byte) : (s.setSt b).pc = s.pc := rfl
@[simp] theorem State.setSt_sp (b : Byte) : (s.setSt b).sp = s.sp := rfl
@[simp] theorem State.setSt_stack (b : Byte) : (s.setSt b).stack = s.stack := rfl
@[simp] theorem State.setSt_dt (b : Byte) : (s.setSt b).dt = s.dt := rfl
@[simp] theorem State.setSt_st (b : Byte) : (s.setSt b).st = b := rfl
@[simp] theorem State.setSt_fb (b : Byte) : (s.setSt b).fb = s.fb := rfl
@[simp] theorem State.setSt_keys (b : Byte) : (s.setSt b).keys = s.keys := rfl
@[simp] theorem State.setSt_mem (b : Byte) : (s.setSt b).mem = s.mem := rfl
@[simp] theorem State.setSt_wait (b : Byte) : (s.setSt b).wait = s.wait := rfl
@[simp] theorem State.setSt_latch (b : Byte) : (s.setSt b).latch = s.latch := rfl
@[simp] theorem State.setSt_halt (b : Byte) : (s.setSt b).halt = s.halt := rfl
@[simp] theorem State.setSt_params (b : Byte) : (s.setSt b).params = s.params := rfl
@[simp] theorem State.setSt_result (b : Byte) : (s.setSt b).result = s.result := rfl
@[simp] theorem State.setSt_draws (b : Byte) : (s.setSt b).draws = s.draws := rfl
@[simp] theorem State.setSt_schedule (b : Byte) : (s.setSt b).schedule = s.schedule := rfl
@[simp] theorem State.setSt_reg (b : Byte) (r : Reg) : (s.setSt b).reg r = s.reg r := rfl
@[simp] theorem State.setSt_readByte (b : Byte) (a : Addr) : (s.setSt b).readByte a = s.readByte a := rfl
@[simp] theorem State.setSt_cell (b : Byte) (c : Fin 64) (r : Fin 32) : (s.setSt b).cell c r = s.cell c r := rfl
@[simp] theorem State.setSt_key (b : Byte) (k : Key) : (s.setSt b).key k = s.key k := rfl
@[simp] theorem State.setSt_entry (b : Byte) (k : Fin 16) : (s.setSt b).entry k = s.entry k := rfl
@[simp] theorem State.setSt_image (b : Byte) : (s.setSt b).image = s.image := rfl
@[simp] theorem State.setSt_writable (b : Byte) (a : Addr) : (s.setSt b).writable a = s.writable a := rfl
@[simp] theorem State.setSt_instrAddr (b : Byte) : (s.setSt b).instrAddr = s.instrAddr := rfl

/-! ## putKey -/

@[simp] theorem State.putKey_v (k : Key) (p : Bool) : (s.putKey k p).v = s.v := rfl
@[simp] theorem State.putKey_i (k : Key) (p : Bool) : (s.putKey k p).i = s.i := rfl
@[simp] theorem State.putKey_pc (k : Key) (p : Bool) : (s.putKey k p).pc = s.pc := rfl
@[simp] theorem State.putKey_sp (k : Key) (p : Bool) : (s.putKey k p).sp = s.sp := rfl
@[simp] theorem State.putKey_stack (k : Key) (p : Bool) : (s.putKey k p).stack = s.stack := rfl
@[simp] theorem State.putKey_dt (k : Key) (p : Bool) : (s.putKey k p).dt = s.dt := rfl
@[simp] theorem State.putKey_st (k : Key) (p : Bool) : (s.putKey k p).st = s.st := rfl
@[simp] theorem State.putKey_fb (k : Key) (p : Bool) : (s.putKey k p).fb = s.fb := rfl
@[simp] theorem State.putKey_keys (k : Key) (p : Bool) : (s.putKey k p).keys = s.keys.set k.val p := rfl
@[simp] theorem State.putKey_mem (k : Key) (p : Bool) : (s.putKey k p).mem = s.mem := rfl
@[simp] theorem State.putKey_wait (k : Key) (p : Bool) : (s.putKey k p).wait = s.wait := rfl
@[simp] theorem State.putKey_latch (k : Key) (p : Bool) : (s.putKey k p).latch = s.latch := rfl
@[simp] theorem State.putKey_halt (k : Key) (p : Bool) : (s.putKey k p).halt = s.halt := rfl
@[simp] theorem State.putKey_params (k : Key) (p : Bool) : (s.putKey k p).params = s.params := rfl
@[simp] theorem State.putKey_result (k : Key) (p : Bool) : (s.putKey k p).result = s.result := rfl
@[simp] theorem State.putKey_draws (k : Key) (p : Bool) : (s.putKey k p).draws = s.draws := rfl
@[simp] theorem State.putKey_schedule (k : Key) (p : Bool) : (s.putKey k p).schedule = s.schedule := rfl
@[simp] theorem State.putKey_reg (k : Key) (p : Bool) (r : Reg) : (s.putKey k p).reg r = s.reg r := rfl
@[simp] theorem State.putKey_readByte (k : Key) (p : Bool) (a : Addr) : (s.putKey k p).readByte a = s.readByte a := rfl
@[simp] theorem State.putKey_cell (k : Key) (p : Bool) (c : Fin 64) (r : Fin 32) : (s.putKey k p).cell c r = s.cell c r := rfl
@[simp] theorem State.putKey_entry (k : Key) (p : Bool) (n : Fin 16) : (s.putKey k p).entry n = s.entry n := rfl
@[simp] theorem State.putKey_image (k : Key) (p : Bool) : (s.putKey k p).image = s.image := rfl
@[simp] theorem State.putKey_writable (k : Key) (p : Bool) (a : Addr) : (s.putKey k p).writable a = s.writable a := rfl
@[simp] theorem State.putKey_instrAddr (k : Key) (p : Bool) : (s.putKey k p).instrAddr = s.instrAddr := rfl

/-! ## setWait -/

@[simp] theorem State.setWait_v (w : Option Reg) : (s.setWait w).v = s.v := rfl
@[simp] theorem State.setWait_i (w : Option Reg) : (s.setWait w).i = s.i := rfl
@[simp] theorem State.setWait_pc (w : Option Reg) : (s.setWait w).pc = s.pc := rfl
@[simp] theorem State.setWait_sp (w : Option Reg) : (s.setWait w).sp = s.sp := rfl
@[simp] theorem State.setWait_stack (w : Option Reg) : (s.setWait w).stack = s.stack := rfl
@[simp] theorem State.setWait_dt (w : Option Reg) : (s.setWait w).dt = s.dt := rfl
@[simp] theorem State.setWait_st (w : Option Reg) : (s.setWait w).st = s.st := rfl
@[simp] theorem State.setWait_fb (w : Option Reg) : (s.setWait w).fb = s.fb := rfl
@[simp] theorem State.setWait_keys (w : Option Reg) : (s.setWait w).keys = s.keys := rfl
@[simp] theorem State.setWait_mem (w : Option Reg) : (s.setWait w).mem = s.mem := rfl
@[simp] theorem State.setWait_wait (w : Option Reg) : (s.setWait w).wait = w := rfl
@[simp] theorem State.setWait_latch (w : Option Reg) : (s.setWait w).latch = s.latch := rfl
@[simp] theorem State.setWait_halt (w : Option Reg) : (s.setWait w).halt = s.halt := rfl
@[simp] theorem State.setWait_params (w : Option Reg) : (s.setWait w).params = s.params := rfl
@[simp] theorem State.setWait_result (w : Option Reg) : (s.setWait w).result = s.result := rfl
@[simp] theorem State.setWait_draws (w : Option Reg) : (s.setWait w).draws = s.draws := rfl
@[simp] theorem State.setWait_schedule (w : Option Reg) : (s.setWait w).schedule = s.schedule := rfl
@[simp] theorem State.setWait_reg (w : Option Reg) (r : Reg) : (s.setWait w).reg r = s.reg r := rfl
@[simp] theorem State.setWait_readByte (w : Option Reg) (a : Addr) : (s.setWait w).readByte a = s.readByte a := rfl
@[simp] theorem State.setWait_cell (w : Option Reg) (c : Fin 64) (r : Fin 32) : (s.setWait w).cell c r = s.cell c r := rfl
@[simp] theorem State.setWait_key (w : Option Reg) (k : Key) : (s.setWait w).key k = s.key k := rfl
@[simp] theorem State.setWait_entry (w : Option Reg) (k : Fin 16) : (s.setWait w).entry k = s.entry k := rfl
@[simp] theorem State.setWait_image (w : Option Reg) : (s.setWait w).image = s.image := rfl
@[simp] theorem State.setWait_writable (w : Option Reg) (a : Addr) : (s.setWait w).writable a = s.writable a := rfl
@[simp] theorem State.setWait_instrAddr (w : Option Reg) : (s.setWait w).instrAddr = s.instrAddr := rfl

/-! ## setLatch -/

@[simp] theorem State.setLatch_v (l : Option Key) : (s.setLatch l).v = s.v := rfl
@[simp] theorem State.setLatch_i (l : Option Key) : (s.setLatch l).i = s.i := rfl
@[simp] theorem State.setLatch_pc (l : Option Key) : (s.setLatch l).pc = s.pc := rfl
@[simp] theorem State.setLatch_sp (l : Option Key) : (s.setLatch l).sp = s.sp := rfl
@[simp] theorem State.setLatch_stack (l : Option Key) : (s.setLatch l).stack = s.stack := rfl
@[simp] theorem State.setLatch_dt (l : Option Key) : (s.setLatch l).dt = s.dt := rfl
@[simp] theorem State.setLatch_st (l : Option Key) : (s.setLatch l).st = s.st := rfl
@[simp] theorem State.setLatch_fb (l : Option Key) : (s.setLatch l).fb = s.fb := rfl
@[simp] theorem State.setLatch_keys (l : Option Key) : (s.setLatch l).keys = s.keys := rfl
@[simp] theorem State.setLatch_mem (l : Option Key) : (s.setLatch l).mem = s.mem := rfl
@[simp] theorem State.setLatch_wait (l : Option Key) : (s.setLatch l).wait = s.wait := rfl
@[simp] theorem State.setLatch_latch (l : Option Key) : (s.setLatch l).latch = l := rfl
@[simp] theorem State.setLatch_halt (l : Option Key) : (s.setLatch l).halt = s.halt := rfl
@[simp] theorem State.setLatch_params (l : Option Key) : (s.setLatch l).params = s.params := rfl
@[simp] theorem State.setLatch_result (l : Option Key) : (s.setLatch l).result = s.result := rfl
@[simp] theorem State.setLatch_draws (l : Option Key) : (s.setLatch l).draws = s.draws := rfl
@[simp] theorem State.setLatch_schedule (l : Option Key) : (s.setLatch l).schedule = s.schedule := rfl
@[simp] theorem State.setLatch_reg (l : Option Key) (r : Reg) : (s.setLatch l).reg r = s.reg r := rfl
@[simp] theorem State.setLatch_readByte (l : Option Key) (a : Addr) : (s.setLatch l).readByte a = s.readByte a := rfl
@[simp] theorem State.setLatch_cell (l : Option Key) (c : Fin 64) (r : Fin 32) : (s.setLatch l).cell c r = s.cell c r := rfl
@[simp] theorem State.setLatch_key (l : Option Key) (k : Key) : (s.setLatch l).key k = s.key k := rfl
@[simp] theorem State.setLatch_entry (l : Option Key) (k : Fin 16) : (s.setLatch l).entry k = s.entry k := rfl
@[simp] theorem State.setLatch_image (l : Option Key) : (s.setLatch l).image = s.image := rfl
@[simp] theorem State.setLatch_writable (l : Option Key) (a : Addr) : (s.setLatch l).writable a = s.writable a := rfl
@[simp] theorem State.setLatch_instrAddr (l : Option Key) : (s.setLatch l).instrAddr = s.instrAddr := rfl

/-! ## setFb -/

@[simp] theorem State.setFb_v (g : Grid) : (s.setFb g).v = s.v := rfl
@[simp] theorem State.setFb_i (g : Grid) : (s.setFb g).i = s.i := rfl
@[simp] theorem State.setFb_pc (g : Grid) : (s.setFb g).pc = s.pc := rfl
@[simp] theorem State.setFb_sp (g : Grid) : (s.setFb g).sp = s.sp := rfl
@[simp] theorem State.setFb_stack (g : Grid) : (s.setFb g).stack = s.stack := rfl
@[simp] theorem State.setFb_dt (g : Grid) : (s.setFb g).dt = s.dt := rfl
@[simp] theorem State.setFb_st (g : Grid) : (s.setFb g).st = s.st := rfl
@[simp] theorem State.setFb_fb (g : Grid) : (s.setFb g).fb = g := rfl
@[simp] theorem State.setFb_keys (g : Grid) : (s.setFb g).keys = s.keys := rfl
@[simp] theorem State.setFb_mem (g : Grid) : (s.setFb g).mem = s.mem := rfl
@[simp] theorem State.setFb_wait (g : Grid) : (s.setFb g).wait = s.wait := rfl
@[simp] theorem State.setFb_latch (g : Grid) : (s.setFb g).latch = s.latch := rfl
@[simp] theorem State.setFb_halt (g : Grid) : (s.setFb g).halt = s.halt := rfl
@[simp] theorem State.setFb_params (g : Grid) : (s.setFb g).params = s.params := rfl
@[simp] theorem State.setFb_result (g : Grid) : (s.setFb g).result = s.result := rfl
@[simp] theorem State.setFb_draws (g : Grid) : (s.setFb g).draws = s.draws := rfl
@[simp] theorem State.setFb_schedule (g : Grid) : (s.setFb g).schedule = s.schedule := rfl
@[simp] theorem State.setFb_reg (g : Grid) (r : Reg) : (s.setFb g).reg r = s.reg r := rfl
@[simp] theorem State.setFb_readByte (g : Grid) (a : Addr) : (s.setFb g).readByte a = s.readByte a := rfl
@[simp] theorem State.setFb_key (g : Grid) (k : Key) : (s.setFb g).key k = s.key k := rfl
@[simp] theorem State.setFb_entry (g : Grid) (k : Fin 16) : (s.setFb g).entry k = s.entry k := rfl
@[simp] theorem State.setFb_image (g : Grid) : (s.setFb g).image = s.image := rfl
@[simp] theorem State.setFb_writable (g : Grid) (a : Addr) : (s.setFb g).writable a = s.writable a := rfl
@[simp] theorem State.setFb_instrAddr (g : Grid) : (s.setFb g).instrAddr = s.instrAddr := rfl

/-! ## pokeByte -/

@[simp] theorem State.pokeByte_v (a : Addr) (b : Byte) : (s.pokeByte a b).v = s.v := rfl
@[simp] theorem State.pokeByte_i (a : Addr) (b : Byte) : (s.pokeByte a b).i = s.i := rfl
@[simp] theorem State.pokeByte_pc (a : Addr) (b : Byte) : (s.pokeByte a b).pc = s.pc := rfl
@[simp] theorem State.pokeByte_sp (a : Addr) (b : Byte) : (s.pokeByte a b).sp = s.sp := rfl
@[simp] theorem State.pokeByte_stack (a : Addr) (b : Byte) : (s.pokeByte a b).stack = s.stack := rfl
@[simp] theorem State.pokeByte_dt (a : Addr) (b : Byte) : (s.pokeByte a b).dt = s.dt := rfl
@[simp] theorem State.pokeByte_st (a : Addr) (b : Byte) : (s.pokeByte a b).st = s.st := rfl
@[simp] theorem State.pokeByte_fb (a : Addr) (b : Byte) : (s.pokeByte a b).fb = s.fb := rfl
@[simp] theorem State.pokeByte_keys (a : Addr) (b : Byte) : (s.pokeByte a b).keys = s.keys := rfl
@[simp] theorem State.pokeByte_mem (a : Addr) (b : Byte) : (s.pokeByte a b).mem = memWrite s.image s.mem a.val b := rfl
@[simp] theorem State.pokeByte_wait (a : Addr) (b : Byte) : (s.pokeByte a b).wait = s.wait := rfl
@[simp] theorem State.pokeByte_latch (a : Addr) (b : Byte) : (s.pokeByte a b).latch = s.latch := rfl
@[simp] theorem State.pokeByte_halt (a : Addr) (b : Byte) : (s.pokeByte a b).halt = s.halt := rfl
@[simp] theorem State.pokeByte_params (a : Addr) (b : Byte) : (s.pokeByte a b).params = s.params := rfl
@[simp] theorem State.pokeByte_result (a : Addr) (b : Byte) : (s.pokeByte a b).result = s.result := rfl
@[simp] theorem State.pokeByte_draws (a : Addr) (b : Byte) : (s.pokeByte a b).draws = s.draws := rfl
@[simp] theorem State.pokeByte_schedule (a : Addr) (b : Byte) : (s.pokeByte a b).schedule = s.schedule := rfl
@[simp] theorem State.pokeByte_reg (a : Addr) (b : Byte) (r : Reg) : (s.pokeByte a b).reg r = s.reg r := rfl
@[simp] theorem State.pokeByte_cell (a : Addr) (b : Byte) (c : Fin 64) (r : Fin 32) : (s.pokeByte a b).cell c r = s.cell c r := rfl
@[simp] theorem State.pokeByte_key (a : Addr) (b : Byte) (k : Key) : (s.pokeByte a b).key k = s.key k := rfl
@[simp] theorem State.pokeByte_entry (a : Addr) (b : Byte) (k : Fin 16) : (s.pokeByte a b).entry k = s.entry k := rfl
@[simp] theorem State.pokeByte_image (a : Addr) (b : Byte) : (s.pokeByte a b).image = s.image := rfl
@[simp] theorem State.pokeByte_writable (a : Addr) (b : Byte) (c : Addr) : (s.pokeByte a b).writable c = s.writable c := rfl
@[simp] theorem State.pokeByte_instrAddr (a : Addr) (b : Byte) : (s.pokeByte a b).instrAddr = s.instrAddr := rfl

/-! ## answer -/

@[simp] theorem State.answer_v (q : Result) : (s.answer q).v = s.v := rfl
@[simp] theorem State.answer_i (q : Result) : (s.answer q).i = s.i := rfl
@[simp] theorem State.answer_pc (q : Result) : (s.answer q).pc = s.pc := rfl
@[simp] theorem State.answer_sp (q : Result) : (s.answer q).sp = s.sp := rfl
@[simp] theorem State.answer_stack (q : Result) : (s.answer q).stack = s.stack := rfl
@[simp] theorem State.answer_dt (q : Result) : (s.answer q).dt = s.dt := rfl
@[simp] theorem State.answer_st (q : Result) : (s.answer q).st = s.st := rfl
@[simp] theorem State.answer_fb (q : Result) : (s.answer q).fb = s.fb := rfl
@[simp] theorem State.answer_keys (q : Result) : (s.answer q).keys = s.keys := rfl
@[simp] theorem State.answer_mem (q : Result) : (s.answer q).mem = s.mem := rfl
@[simp] theorem State.answer_wait (q : Result) : (s.answer q).wait = s.wait := rfl
@[simp] theorem State.answer_latch (q : Result) : (s.answer q).latch = s.latch := rfl
@[simp] theorem State.answer_halt (q : Result) : (s.answer q).halt = s.halt := rfl
@[simp] theorem State.answer_params (q : Result) : (s.answer q).params = s.params := rfl
@[simp] theorem State.answer_result (q : Result) : (s.answer q).result = q := rfl
@[simp] theorem State.answer_draws (q : Result) : (s.answer q).draws = s.draws := rfl
@[simp] theorem State.answer_schedule (q : Result) : (s.answer q).schedule = s.schedule := rfl
@[simp] theorem State.answer_reg (q : Result) (r : Reg) : (s.answer q).reg r = s.reg r := rfl
@[simp] theorem State.answer_readByte (q : Result) (a : Addr) : (s.answer q).readByte a = s.readByte a := rfl
@[simp] theorem State.answer_cell (q : Result) (c : Fin 64) (r : Fin 32) : (s.answer q).cell c r = s.cell c r := rfl
@[simp] theorem State.answer_key (q : Result) (k : Key) : (s.answer q).key k = s.key k := rfl
@[simp] theorem State.answer_entry (q : Result) (k : Fin 16) : (s.answer q).entry k = s.entry k := rfl
@[simp] theorem State.answer_image (q : Result) : (s.answer q).image = s.image := rfl
@[simp] theorem State.answer_writable (q : Result) (a : Addr) : (s.answer q).writable a = s.writable a := rfl
@[simp] theorem State.answer_instrAddr (q : Result) : (s.answer q).instrAddr = s.instrAddr := rfl

/-! ## dropCall -/

@[simp] theorem State.dropCall_v : (s.dropCall).v = s.v := rfl
@[simp] theorem State.dropCall_i : (s.dropCall).i = s.i := rfl
@[simp] theorem State.dropCall_pc : (s.dropCall).pc = s.pc := rfl
@[simp] theorem State.dropCall_sp : (s.dropCall).sp = s.sp := rfl
@[simp] theorem State.dropCall_stack : (s.dropCall).stack = s.stack := rfl
@[simp] theorem State.dropCall_dt : (s.dropCall).dt = s.dt := rfl
@[simp] theorem State.dropCall_st : (s.dropCall).st = s.st := rfl
@[simp] theorem State.dropCall_fb : (s.dropCall).fb = s.fb := rfl
@[simp] theorem State.dropCall_keys : (s.dropCall).keys = s.keys := rfl
@[simp] theorem State.dropCall_mem : (s.dropCall).mem = s.mem := rfl
@[simp] theorem State.dropCall_wait : (s.dropCall).wait = s.wait := rfl
@[simp] theorem State.dropCall_latch : (s.dropCall).latch = s.latch := rfl
@[simp] theorem State.dropCall_halt : (s.dropCall).halt = s.halt := rfl
@[simp] theorem State.dropCall_params : (s.dropCall).params = s.params := rfl
@[simp] theorem State.dropCall_result : (s.dropCall).result = s.result := rfl
@[simp] theorem State.dropCall_draws : (s.dropCall).draws = s.draws := rfl
@[simp] theorem State.dropCall_schedule : (s.dropCall).schedule = s.schedule.tail := rfl
@[simp] theorem State.dropCall_reg (r : Reg) : (s.dropCall).reg r = s.reg r := rfl
@[simp] theorem State.dropCall_readByte (a : Addr) : (s.dropCall).readByte a = s.readByte a := rfl
@[simp] theorem State.dropCall_cell (c : Fin 64) (r : Fin 32) : (s.dropCall).cell c r = s.cell c r := rfl
@[simp] theorem State.dropCall_key (k : Key) : (s.dropCall).key k = s.key k := rfl
@[simp] theorem State.dropCall_entry (k : Fin 16) : (s.dropCall).entry k = s.entry k := rfl
@[simp] theorem State.dropCall_image : (s.dropCall).image = s.image := rfl
@[simp] theorem State.dropCall_writable (a : Addr) : (s.dropCall).writable a = s.writable a := rfl
@[simp] theorem State.dropCall_instrAddr : (s.dropCall).instrAddr = s.instrAddr := rfl

/-! ## raise -/

@[simp] theorem State.raise_result (q : Status) : (s.raise q).result = .status q := by
  unfold State.raise; split <;> rfl
@[simp] theorem State.raise_halt (q : Status) : (s.raise q).halt = (fatalCause q).or s.halt := by
  unfold State.raise; split <;> simp_all
@[simp] theorem State.raise_v (q : Status) : (s.raise q).v = s.v := by
  unfold State.raise; split <;> rfl
@[simp] theorem State.raise_i (q : Status) : (s.raise q).i = s.i := by
  unfold State.raise; split <;> rfl
@[simp] theorem State.raise_pc (q : Status) : (s.raise q).pc = s.pc := by
  unfold State.raise; split <;> rfl
@[simp] theorem State.raise_sp (q : Status) : (s.raise q).sp = s.sp := by
  unfold State.raise; split <;> rfl
@[simp] theorem State.raise_stack (q : Status) : (s.raise q).stack = s.stack := by
  unfold State.raise; split <;> rfl
@[simp] theorem State.raise_dt (q : Status) : (s.raise q).dt = s.dt := by
  unfold State.raise; split <;> rfl
@[simp] theorem State.raise_st (q : Status) : (s.raise q).st = s.st := by
  unfold State.raise; split <;> rfl
@[simp] theorem State.raise_fb (q : Status) : (s.raise q).fb = s.fb := by
  unfold State.raise; split <;> rfl
@[simp] theorem State.raise_keys (q : Status) : (s.raise q).keys = s.keys := by
  unfold State.raise; split <;> rfl
@[simp] theorem State.raise_mem (q : Status) : (s.raise q).mem = s.mem := by
  unfold State.raise; split <;> rfl
@[simp] theorem State.raise_wait (q : Status) : (s.raise q).wait = s.wait := by
  unfold State.raise; split <;> rfl
@[simp] theorem State.raise_latch (q : Status) : (s.raise q).latch = s.latch := by
  unfold State.raise; split <;> rfl
@[simp] theorem State.raise_params (q : Status) : (s.raise q).params = s.params := by
  unfold State.raise; split <;> rfl
@[simp] theorem State.raise_draws (q : Status) : (s.raise q).draws = s.draws := by
  unfold State.raise; split <;> rfl
@[simp] theorem State.raise_schedule (q : Status) : (s.raise q).schedule = s.schedule := by
  unfold State.raise; split <;> rfl
@[simp] theorem State.raise_reg (q : Status) (r : Reg) : (s.raise q).reg r = s.reg r := by
  unfold State.raise; split <;> rfl
@[simp] theorem State.raise_readByte (q : Status) (a : Addr) : (s.raise q).readByte a = s.readByte a := by
  unfold State.raise; split <;> rfl
@[simp] theorem State.raise_cell (q : Status) (c : Fin 64) (r : Fin 32) : (s.raise q).cell c r = s.cell c r := by
  unfold State.raise; split <;> rfl
@[simp] theorem State.raise_key (q : Status) (k : Key) : (s.raise q).key k = s.key k := by
  unfold State.raise; split <;> rfl
@[simp] theorem State.raise_entry (q : Status) (k : Fin 16) : (s.raise q).entry k = s.entry k := by
  unfold State.raise; split <;> rfl
@[simp] theorem State.raise_image (q : Status) : (s.raise q).image = s.image := by
  unfold State.raise; split <;> rfl
@[simp] theorem State.raise_writable (q : Status) (a : Addr) : (s.raise q).writable a = s.writable a := by
  unfold State.raise; split <;> rfl
@[simp] theorem State.raise_instrAddr (q : Status) : (s.raise q).instrAddr = s.instrAddr := by
  unfold State.raise; split <;> rfl

/-! ## setFlag: only V changes -/

@[simp] theorem State.setFlag_i (f : Bool) : (s.setFlag f).i = s.i := rfl
@[simp] theorem State.setFlag_pc (f : Bool) : (s.setFlag f).pc = s.pc := rfl
@[simp] theorem State.setFlag_sp (f : Bool) : (s.setFlag f).sp = s.sp := rfl
@[simp] theorem State.setFlag_stack (f : Bool) : (s.setFlag f).stack = s.stack := rfl
@[simp] theorem State.setFlag_dt (f : Bool) : (s.setFlag f).dt = s.dt := rfl
@[simp] theorem State.setFlag_st (f : Bool) : (s.setFlag f).st = s.st := rfl
@[simp] theorem State.setFlag_fb (f : Bool) : (s.setFlag f).fb = s.fb := rfl
@[simp] theorem State.setFlag_keys (f : Bool) : (s.setFlag f).keys = s.keys := rfl
@[simp] theorem State.setFlag_mem (f : Bool) : (s.setFlag f).mem = s.mem := rfl
@[simp] theorem State.setFlag_wait (f : Bool) : (s.setFlag f).wait = s.wait := rfl
@[simp] theorem State.setFlag_latch (f : Bool) : (s.setFlag f).latch = s.latch := rfl
@[simp] theorem State.setFlag_halt (f : Bool) : (s.setFlag f).halt = s.halt := rfl
@[simp] theorem State.setFlag_params (f : Bool) : (s.setFlag f).params = s.params := rfl
@[simp] theorem State.setFlag_result (f : Bool) : (s.setFlag f).result = s.result := rfl
@[simp] theorem State.setFlag_draws (f : Bool) : (s.setFlag f).draws = s.draws := rfl
@[simp] theorem State.setFlag_schedule (f : Bool) : (s.setFlag f).schedule = s.schedule := rfl
@[simp] theorem State.setFlag_readByte (f : Bool) (a : Addr) : (s.setFlag f).readByte a = s.readByte a := rfl
@[simp] theorem State.setFlag_cell (f : Bool) (c : Fin 64) (r : Fin 32) : (s.setFlag f).cell c r = s.cell c r := rfl
@[simp] theorem State.setFlag_key (f : Bool) (k : Key) : (s.setFlag f).key k = s.key k := rfl
@[simp] theorem State.setFlag_entry (f : Bool) (k : Fin 16) : (s.setFlag f).entry k = s.entry k := rfl
@[simp] theorem State.setFlag_image (f : Bool) : (s.setFlag f).image = s.image := rfl
@[simp] theorem State.setFlag_writable (f : Bool) (a : Addr) : (s.setFlag f).writable a = s.writable a := rfl
@[simp] theorem State.setFlag_instrAddr (f : Bool) : (s.setFlag f).instrAddr = s.instrAddr := rfl

/-! ## setRegFlag -/

@[simp] theorem State.setRegFlag_i (x : Reg) (p : Byte × Bool) : (s.setRegFlag x p).i = s.i := rfl
@[simp] theorem State.setRegFlag_pc (x : Reg) (p : Byte × Bool) : (s.setRegFlag x p).pc = s.pc := rfl
@[simp] theorem State.setRegFlag_sp (x : Reg) (p : Byte × Bool) : (s.setRegFlag x p).sp = s.sp := rfl
@[simp] theorem State.setRegFlag_stack (x : Reg) (p : Byte × Bool) : (s.setRegFlag x p).stack = s.stack := rfl
@[simp] theorem State.setRegFlag_dt (x : Reg) (p : Byte × Bool) : (s.setRegFlag x p).dt = s.dt := rfl
@[simp] theorem State.setRegFlag_st (x : Reg) (p : Byte × Bool) : (s.setRegFlag x p).st = s.st := rfl
@[simp] theorem State.setRegFlag_fb (x : Reg) (p : Byte × Bool) : (s.setRegFlag x p).fb = s.fb := rfl
@[simp] theorem State.setRegFlag_keys (x : Reg) (p : Byte × Bool) : (s.setRegFlag x p).keys = s.keys := rfl
@[simp] theorem State.setRegFlag_mem (x : Reg) (p : Byte × Bool) : (s.setRegFlag x p).mem = s.mem := rfl
@[simp] theorem State.setRegFlag_wait (x : Reg) (p : Byte × Bool) : (s.setRegFlag x p).wait = s.wait := rfl
@[simp] theorem State.setRegFlag_latch (x : Reg) (p : Byte × Bool) : (s.setRegFlag x p).latch = s.latch := rfl
@[simp] theorem State.setRegFlag_halt (x : Reg) (p : Byte × Bool) : (s.setRegFlag x p).halt = s.halt := rfl
@[simp] theorem State.setRegFlag_params (x : Reg) (p : Byte × Bool) : (s.setRegFlag x p).params = s.params := rfl
@[simp] theorem State.setRegFlag_result (x : Reg) (p : Byte × Bool) : (s.setRegFlag x p).result = s.result := rfl
@[simp] theorem State.setRegFlag_draws (x : Reg) (p : Byte × Bool) : (s.setRegFlag x p).draws = s.draws := rfl
@[simp] theorem State.setRegFlag_schedule (x : Reg) (p : Byte × Bool) : (s.setRegFlag x p).schedule = s.schedule := rfl
@[simp] theorem State.setRegFlag_readByte (x : Reg) (p : Byte × Bool) (a : Addr) :
    (s.setRegFlag x p).readByte a = s.readByte a := rfl
@[simp] theorem State.setRegFlag_cell (x : Reg) (p : Byte × Bool) (c : Fin 64) (r : Fin 32) :
    (s.setRegFlag x p).cell c r = s.cell c r := rfl
@[simp] theorem State.setRegFlag_key (x : Reg) (p : Byte × Bool) (k : Key) :
    (s.setRegFlag x p).key k = s.key k := rfl
@[simp] theorem State.setRegFlag_entry (x : Reg) (p : Byte × Bool) (k : Fin 16) :
    (s.setRegFlag x p).entry k = s.entry k := rfl
@[simp] theorem State.setRegFlag_writable (x : Reg) (p : Byte × Bool) (a : Addr) :
    (s.setRegFlag x p).writable a = s.writable a := rfl
@[simp] theorem State.setRegFlag_image (x : Reg) (p : Byte × Bool) : (s.setRegFlag x p).image = s.image := rfl
@[simp] theorem State.setRegFlag_instrAddr (x : Reg) (p : Byte × Bool) : (s.setRegFlag x p).instrAddr = s.instrAddr := rfl

/-! ## writeByte: only memory changes -/

@[simp] theorem State.writeByte_v (a : Addr) (b : Byte) : (s.writeByte a b).v = s.v := by
  unfold State.writeByte; split <;> rfl
@[simp] theorem State.writeByte_i (a : Addr) (b : Byte) : (s.writeByte a b).i = s.i := by
  unfold State.writeByte; split <;> rfl
@[simp] theorem State.writeByte_pc (a : Addr) (b : Byte) : (s.writeByte a b).pc = s.pc := by
  unfold State.writeByte; split <;> rfl
@[simp] theorem State.writeByte_sp (a : Addr) (b : Byte) : (s.writeByte a b).sp = s.sp := by
  unfold State.writeByte; split <;> rfl
@[simp] theorem State.writeByte_stack (a : Addr) (b : Byte) : (s.writeByte a b).stack = s.stack := by
  unfold State.writeByte; split <;> rfl
@[simp] theorem State.writeByte_dt (a : Addr) (b : Byte) : (s.writeByte a b).dt = s.dt := by
  unfold State.writeByte; split <;> rfl
@[simp] theorem State.writeByte_st (a : Addr) (b : Byte) : (s.writeByte a b).st = s.st := by
  unfold State.writeByte; split <;> rfl
@[simp] theorem State.writeByte_fb (a : Addr) (b : Byte) : (s.writeByte a b).fb = s.fb := by
  unfold State.writeByte; split <;> rfl
@[simp] theorem State.writeByte_keys (a : Addr) (b : Byte) : (s.writeByte a b).keys = s.keys := by
  unfold State.writeByte; split <;> rfl
@[simp] theorem State.writeByte_wait (a : Addr) (b : Byte) : (s.writeByte a b).wait = s.wait := by
  unfold State.writeByte; split <;> rfl
@[simp] theorem State.writeByte_latch (a : Addr) (b : Byte) : (s.writeByte a b).latch = s.latch := by
  unfold State.writeByte; split <;> rfl
@[simp] theorem State.writeByte_halt (a : Addr) (b : Byte) : (s.writeByte a b).halt = s.halt := by
  unfold State.writeByte; split <;> rfl
@[simp] theorem State.writeByte_params (a : Addr) (b : Byte) : (s.writeByte a b).params = s.params := by
  unfold State.writeByte; split <;> rfl
@[simp] theorem State.writeByte_result (a : Addr) (b : Byte) : (s.writeByte a b).result = s.result := by
  unfold State.writeByte; split <;> rfl
@[simp] theorem State.writeByte_draws (a : Addr) (b : Byte) : (s.writeByte a b).draws = s.draws := by
  unfold State.writeByte; split <;> rfl
@[simp] theorem State.writeByte_schedule (a : Addr) (b : Byte) : (s.writeByte a b).schedule = s.schedule := by
  unfold State.writeByte; split <;> rfl
@[simp] theorem State.writeByte_reg (a : Addr) (b : Byte) (r : Reg) : (s.writeByte a b).reg r = s.reg r := by
  unfold State.writeByte; split <;> rfl
@[simp] theorem State.writeByte_cell (a : Addr) (b : Byte) (c : Fin 64) (r : Fin 32) : (s.writeByte a b).cell c r = s.cell c r := by
  unfold State.writeByte; split <;> rfl
@[simp] theorem State.writeByte_key (a : Addr) (b : Byte) (k : Key) : (s.writeByte a b).key k = s.key k := by
  unfold State.writeByte; split <;> rfl
@[simp] theorem State.writeByte_entry (a : Addr) (b : Byte) (k : Fin 16) : (s.writeByte a b).entry k = s.entry k := by
  unfold State.writeByte; split <;> rfl
@[simp] theorem State.writeByte_image (a : Addr) (b : Byte) : (s.writeByte a b).image = s.image := by
  unfold State.writeByte; split <;> rfl
@[simp] theorem State.writeByte_writable (a : Addr) (b : Byte) (c : Addr) : (s.writeByte a b).writable c = s.writable c := by
  unfold State.writeByte; split <;> rfl
@[simp] theorem State.writeByte_instrAddr (a : Addr) (b : Byte) : (s.writeByte a b).instrAddr = s.instrAddr := by
  unfold State.writeByte; split <;> rfl

/-! ## writeBytes: the state is the old one but for memory -/

theorem State.writeBytes_eq (s : State) (as : List Addr) (bs : List Byte) :
    ∃ m, s.writeBytes as bs = { s with mem := m } := by
  induction as generalizing s bs with
  | nil => exact ⟨s.mem, rfl⟩
  | cons a as ih =>
    cases bs with
    | nil => exact ⟨s.mem, rfl⟩
    | cons b bs =>
      obtain ⟨m, hm⟩ := ih (s.writeByte a b) bs
      refine ⟨m, ?_⟩
      rw [State.writeBytes, hm]
      unfold State.writeByte
      split <;> rfl

@[simp] theorem State.writeBytes_v (as : List Addr) (bs : List Byte) : (s.writeBytes as bs).v = s.v := by
  obtain ⟨m, hm⟩ := s.writeBytes_eq as bs
  rw [hm]
@[simp] theorem State.writeBytes_i (as : List Addr) (bs : List Byte) : (s.writeBytes as bs).i = s.i := by
  obtain ⟨m, hm⟩ := s.writeBytes_eq as bs
  rw [hm]
@[simp] theorem State.writeBytes_pc (as : List Addr) (bs : List Byte) : (s.writeBytes as bs).pc = s.pc := by
  obtain ⟨m, hm⟩ := s.writeBytes_eq as bs
  rw [hm]
@[simp] theorem State.writeBytes_sp (as : List Addr) (bs : List Byte) : (s.writeBytes as bs).sp = s.sp := by
  obtain ⟨m, hm⟩ := s.writeBytes_eq as bs
  rw [hm]
@[simp] theorem State.writeBytes_stack (as : List Addr) (bs : List Byte) : (s.writeBytes as bs).stack = s.stack := by
  obtain ⟨m, hm⟩ := s.writeBytes_eq as bs
  rw [hm]
@[simp] theorem State.writeBytes_dt (as : List Addr) (bs : List Byte) : (s.writeBytes as bs).dt = s.dt := by
  obtain ⟨m, hm⟩ := s.writeBytes_eq as bs
  rw [hm]
@[simp] theorem State.writeBytes_st (as : List Addr) (bs : List Byte) : (s.writeBytes as bs).st = s.st := by
  obtain ⟨m, hm⟩ := s.writeBytes_eq as bs
  rw [hm]
@[simp] theorem State.writeBytes_fb (as : List Addr) (bs : List Byte) : (s.writeBytes as bs).fb = s.fb := by
  obtain ⟨m, hm⟩ := s.writeBytes_eq as bs
  rw [hm]
@[simp] theorem State.writeBytes_keys (as : List Addr) (bs : List Byte) : (s.writeBytes as bs).keys = s.keys := by
  obtain ⟨m, hm⟩ := s.writeBytes_eq as bs
  rw [hm]
@[simp] theorem State.writeBytes_wait (as : List Addr) (bs : List Byte) : (s.writeBytes as bs).wait = s.wait := by
  obtain ⟨m, hm⟩ := s.writeBytes_eq as bs
  rw [hm]
@[simp] theorem State.writeBytes_latch (as : List Addr) (bs : List Byte) : (s.writeBytes as bs).latch = s.latch := by
  obtain ⟨m, hm⟩ := s.writeBytes_eq as bs
  rw [hm]
@[simp] theorem State.writeBytes_halt (as : List Addr) (bs : List Byte) : (s.writeBytes as bs).halt = s.halt := by
  obtain ⟨m, hm⟩ := s.writeBytes_eq as bs
  rw [hm]
@[simp] theorem State.writeBytes_params (as : List Addr) (bs : List Byte) : (s.writeBytes as bs).params = s.params := by
  obtain ⟨m, hm⟩ := s.writeBytes_eq as bs
  rw [hm]
@[simp] theorem State.writeBytes_result (as : List Addr) (bs : List Byte) : (s.writeBytes as bs).result = s.result := by
  obtain ⟨m, hm⟩ := s.writeBytes_eq as bs
  rw [hm]
@[simp] theorem State.writeBytes_draws (as : List Addr) (bs : List Byte) : (s.writeBytes as bs).draws = s.draws := by
  obtain ⟨m, hm⟩ := s.writeBytes_eq as bs
  rw [hm]
@[simp] theorem State.writeBytes_schedule (as : List Addr) (bs : List Byte) : (s.writeBytes as bs).schedule = s.schedule := by
  obtain ⟨m, hm⟩ := s.writeBytes_eq as bs
  rw [hm]
@[simp] theorem State.writeBytes_reg (as : List Addr) (bs : List Byte) (r : Reg) :
    (s.writeBytes as bs).reg r = s.reg r := by
  obtain ⟨m, hm⟩ := s.writeBytes_eq as bs
  rw [hm]; rfl
@[simp] theorem State.writeBytes_cell (as : List Addr) (bs : List Byte) (c : Fin 64) (r : Fin 32) :
    (s.writeBytes as bs).cell c r = s.cell c r := by
  obtain ⟨m, hm⟩ := s.writeBytes_eq as bs
  rw [hm]; rfl
@[simp] theorem State.writeBytes_key (as : List Addr) (bs : List Byte) (k : Key) :
    (s.writeBytes as bs).key k = s.key k := by
  obtain ⟨m, hm⟩ := s.writeBytes_eq as bs
  rw [hm]; rfl
@[simp] theorem State.writeBytes_entry (as : List Addr) (bs : List Byte) (k : Fin 16) :
    (s.writeBytes as bs).entry k = s.entry k := by
  obtain ⟨m, hm⟩ := s.writeBytes_eq as bs
  rw [hm]; rfl
@[simp] theorem State.writeBytes_image (as : List Addr) (bs : List Byte) :
    (s.writeBytes as bs).image = s.image := by
  obtain ⟨m, hm⟩ := s.writeBytes_eq as bs
  rw [hm]; rfl
@[simp] theorem State.writeBytes_writable (as : List Addr) (bs : List Byte) (a : Addr) :
    (s.writeBytes as bs).writable a = s.writable a := by
  obtain ⟨m, hm⟩ := s.writeBytes_eq as bs
  rw [hm]; rfl
@[simp] theorem State.writeBytes_instrAddr (as : List Addr) (bs : List Byte) :
    (s.writeBytes as bs).instrAddr = s.instrAddr := by
  obtain ⟨m, hm⟩ := s.writeBytes_eq as bs
  rw [hm]; rfl

/-! ## setRegs: the state is the old one but for V -/

theorem State.setRegs_eq (s : State) (rs : List Reg) (bs : List Byte) :
    ∃ v, s.setRegs rs bs = { s with v := v } := by
  induction rs generalizing s bs with
  | nil => exact ⟨s.v, rfl⟩
  | cons r rs ih =>
    cases bs with
    | nil => exact ⟨s.v, rfl⟩
    | cons b bs =>
      obtain ⟨v, hv⟩ := ih (s.setReg r b) bs
      exact ⟨v, by rw [State.setRegs, hv]; rfl⟩

@[simp] theorem State.setRegs_i (rs : List Reg) (bs : List Byte) : (s.setRegs rs bs).i = s.i := by
  obtain ⟨v, hv⟩ := s.setRegs_eq rs bs
  rw [hv]
@[simp] theorem State.setRegs_pc (rs : List Reg) (bs : List Byte) : (s.setRegs rs bs).pc = s.pc := by
  obtain ⟨v, hv⟩ := s.setRegs_eq rs bs
  rw [hv]
@[simp] theorem State.setRegs_sp (rs : List Reg) (bs : List Byte) : (s.setRegs rs bs).sp = s.sp := by
  obtain ⟨v, hv⟩ := s.setRegs_eq rs bs
  rw [hv]
@[simp] theorem State.setRegs_stack (rs : List Reg) (bs : List Byte) : (s.setRegs rs bs).stack = s.stack := by
  obtain ⟨v, hv⟩ := s.setRegs_eq rs bs
  rw [hv]
@[simp] theorem State.setRegs_dt (rs : List Reg) (bs : List Byte) : (s.setRegs rs bs).dt = s.dt := by
  obtain ⟨v, hv⟩ := s.setRegs_eq rs bs
  rw [hv]
@[simp] theorem State.setRegs_st (rs : List Reg) (bs : List Byte) : (s.setRegs rs bs).st = s.st := by
  obtain ⟨v, hv⟩ := s.setRegs_eq rs bs
  rw [hv]
@[simp] theorem State.setRegs_fb (rs : List Reg) (bs : List Byte) : (s.setRegs rs bs).fb = s.fb := by
  obtain ⟨v, hv⟩ := s.setRegs_eq rs bs
  rw [hv]
@[simp] theorem State.setRegs_keys (rs : List Reg) (bs : List Byte) : (s.setRegs rs bs).keys = s.keys := by
  obtain ⟨v, hv⟩ := s.setRegs_eq rs bs
  rw [hv]
@[simp] theorem State.setRegs_mem (rs : List Reg) (bs : List Byte) : (s.setRegs rs bs).mem = s.mem := by
  obtain ⟨v, hv⟩ := s.setRegs_eq rs bs
  rw [hv]
@[simp] theorem State.setRegs_wait (rs : List Reg) (bs : List Byte) : (s.setRegs rs bs).wait = s.wait := by
  obtain ⟨v, hv⟩ := s.setRegs_eq rs bs
  rw [hv]
@[simp] theorem State.setRegs_latch (rs : List Reg) (bs : List Byte) : (s.setRegs rs bs).latch = s.latch := by
  obtain ⟨v, hv⟩ := s.setRegs_eq rs bs
  rw [hv]
@[simp] theorem State.setRegs_halt (rs : List Reg) (bs : List Byte) : (s.setRegs rs bs).halt = s.halt := by
  obtain ⟨v, hv⟩ := s.setRegs_eq rs bs
  rw [hv]
@[simp] theorem State.setRegs_params (rs : List Reg) (bs : List Byte) : (s.setRegs rs bs).params = s.params := by
  obtain ⟨v, hv⟩ := s.setRegs_eq rs bs
  rw [hv]
@[simp] theorem State.setRegs_result (rs : List Reg) (bs : List Byte) : (s.setRegs rs bs).result = s.result := by
  obtain ⟨v, hv⟩ := s.setRegs_eq rs bs
  rw [hv]
@[simp] theorem State.setRegs_draws (rs : List Reg) (bs : List Byte) : (s.setRegs rs bs).draws = s.draws := by
  obtain ⟨v, hv⟩ := s.setRegs_eq rs bs
  rw [hv]
@[simp] theorem State.setRegs_schedule (rs : List Reg) (bs : List Byte) : (s.setRegs rs bs).schedule = s.schedule := by
  obtain ⟨v, hv⟩ := s.setRegs_eq rs bs
  rw [hv]
@[simp] theorem State.setRegs_readByte (rs : List Reg) (bs : List Byte) (a : Addr) :
    (s.setRegs rs bs).readByte a = s.readByte a := by
  obtain ⟨v, hv⟩ := s.setRegs_eq rs bs
  rw [hv]; rfl
@[simp] theorem State.setRegs_cell (rs : List Reg) (bs : List Byte) (c : Fin 64) (r : Fin 32) :
    (s.setRegs rs bs).cell c r = s.cell c r := by
  obtain ⟨v, hv⟩ := s.setRegs_eq rs bs
  rw [hv]; rfl
@[simp] theorem State.setRegs_key (rs : List Reg) (bs : List Byte) (k : Key) :
    (s.setRegs rs bs).key k = s.key k := by
  obtain ⟨v, hv⟩ := s.setRegs_eq rs bs
  rw [hv]; rfl
@[simp] theorem State.setRegs_entry (rs : List Reg) (bs : List Byte) (k : Fin 16) :
    (s.setRegs rs bs).entry k = s.entry k := by
  obtain ⟨v, hv⟩ := s.setRegs_eq rs bs
  rw [hv]; rfl
@[simp] theorem State.setRegs_image (rs : List Reg) (bs : List Byte) :
    (s.setRegs rs bs).image = s.image := by
  obtain ⟨v, hv⟩ := s.setRegs_eq rs bs
  rw [hv]; rfl
@[simp] theorem State.setRegs_writable (rs : List Reg) (bs : List Byte) (a : Addr) :
    (s.setRegs rs bs).writable a = s.writable a := by
  obtain ⟨v, hv⟩ := s.setRegs_eq rs bs
  rw [hv]; rfl
@[simp] theorem State.setRegs_instrAddr (rs : List Reg) (bs : List Byte) :
    (s.setRegs rs bs).instrAddr = s.instrAddr := by
  obtain ⟨v, hv⟩ := s.setRegs_eq rs bs
  rw [hv]; rfl

/-! ## flagClamp: only the returned status changes -/

theorem State.flagClamp_eq (s : State) (op : Word) (count : Nat) :
    s.flagClamp op count = s.answer (if clampCount s.i count < count then
      .status (.outOfBoundsAccess s.instrAddr op (s.i.toNat + clampCount s.i count)) else s.result) := by
  simp only [State.flagClamp]
  split <;> rfl

@[simp] theorem State.flagClamp_v (op : Word) (n : Nat) : (s.flagClamp op n).v = s.v := by
  rw [State.flagClamp_eq]; rfl
@[simp] theorem State.flagClamp_i (op : Word) (n : Nat) : (s.flagClamp op n).i = s.i := by
  rw [State.flagClamp_eq]; rfl
@[simp] theorem State.flagClamp_pc (op : Word) (n : Nat) : (s.flagClamp op n).pc = s.pc := by
  rw [State.flagClamp_eq]; rfl
@[simp] theorem State.flagClamp_sp (op : Word) (n : Nat) : (s.flagClamp op n).sp = s.sp := by
  rw [State.flagClamp_eq]; rfl
@[simp] theorem State.flagClamp_stack (op : Word) (n : Nat) : (s.flagClamp op n).stack = s.stack := by
  rw [State.flagClamp_eq]; rfl
@[simp] theorem State.flagClamp_dt (op : Word) (n : Nat) : (s.flagClamp op n).dt = s.dt := by
  rw [State.flagClamp_eq]; rfl
@[simp] theorem State.flagClamp_st (op : Word) (n : Nat) : (s.flagClamp op n).st = s.st := by
  rw [State.flagClamp_eq]; rfl
@[simp] theorem State.flagClamp_fb (op : Word) (n : Nat) : (s.flagClamp op n).fb = s.fb := by
  rw [State.flagClamp_eq]; rfl
@[simp] theorem State.flagClamp_keys (op : Word) (n : Nat) : (s.flagClamp op n).keys = s.keys := by
  rw [State.flagClamp_eq]; rfl
@[simp] theorem State.flagClamp_mem (op : Word) (n : Nat) : (s.flagClamp op n).mem = s.mem := by
  rw [State.flagClamp_eq]; rfl
@[simp] theorem State.flagClamp_wait (op : Word) (n : Nat) : (s.flagClamp op n).wait = s.wait := by
  rw [State.flagClamp_eq]; rfl
@[simp] theorem State.flagClamp_latch (op : Word) (n : Nat) : (s.flagClamp op n).latch = s.latch := by
  rw [State.flagClamp_eq]; rfl
@[simp] theorem State.flagClamp_halt (op : Word) (n : Nat) : (s.flagClamp op n).halt = s.halt := by
  rw [State.flagClamp_eq]; rfl
@[simp] theorem State.flagClamp_params (op : Word) (n : Nat) : (s.flagClamp op n).params = s.params := by
  rw [State.flagClamp_eq]; rfl
@[simp] theorem State.flagClamp_draws (op : Word) (n : Nat) : (s.flagClamp op n).draws = s.draws := by
  rw [State.flagClamp_eq]; rfl
@[simp] theorem State.flagClamp_schedule (op : Word) (n : Nat) : (s.flagClamp op n).schedule = s.schedule := by
  rw [State.flagClamp_eq]; rfl
@[simp] theorem State.flagClamp_reg (op : Word) (n : Nat) (r : Reg) :
    (s.flagClamp op n).reg r = s.reg r := by
  rw [State.flagClamp_eq]; rfl
@[simp] theorem State.flagClamp_readByte (op : Word) (n : Nat) (a : Addr) :
    (s.flagClamp op n).readByte a = s.readByte a := by
  rw [State.flagClamp_eq]; rfl
@[simp] theorem State.flagClamp_cell (op : Word) (n : Nat) (c : Fin 64) (r : Fin 32) :
    (s.flagClamp op n).cell c r = s.cell c r := by
  rw [State.flagClamp_eq]; rfl
@[simp] theorem State.flagClamp_key (op : Word) (n : Nat) (k : Key) :
    (s.flagClamp op n).key k = s.key k := by
  rw [State.flagClamp_eq]; rfl
@[simp] theorem State.flagClamp_entry (op : Word) (n : Nat) (k : Fin 16) :
    (s.flagClamp op n).entry k = s.entry k := by
  rw [State.flagClamp_eq]; rfl
@[simp] theorem State.flagClamp_image (op : Word) (n : Nat) :
    (s.flagClamp op n).image = s.image := by
  rw [State.flagClamp_eq]; rfl
@[simp] theorem State.flagClamp_writable (op : Word) (n : Nat) (a : Addr) :
    (s.flagClamp op n).writable a = s.writable a := by
  rw [State.flagClamp_eq]; rfl
@[simp] theorem State.flagClamp_instrAddr (op : Word) (n : Nat) :
    (s.flagClamp op n).instrAddr = s.instrAddr := by
  rw [State.flagClamp_eq]; rfl

end Sys2Proof.Machine
end

