-- ==== Sys2Proof/Laws/Display.lean ====
section
/-! SUPPORT. The laws of the framebuffer and of drawing (41_display.md rules R170 to R172). -/

namespace Sys2Proof.Machine

/-- A cell after one cell is put. -/
theorem Grid.cell_put (g : Grid) (c a : Fin 64) (r b : Fin 32) (v : Bool) :
    (g.put c r v).cell a b = if a = c ∧ b = r then v else g.cell a b := by
  simp only [Grid.put, Grid.cell, Vector.getElem_set, Fin.ext_iff, eq_comm (a := c.val)]
  by_cases h : a.val = c.val
  · simp only [h, ↓reduceIte, Vector.getElem_set, true_and, eq_comm (a := r.val)]
  · simp [h]

/-- Two grids with the same cells are the same. -/
theorem Grid.ext_cell {g h : Grid} (he : ∀ c r, Grid.cell g c r = Grid.cell h c r) : g = h := by
  apply Vector.ext
  intro c hc
  apply Vector.ext
  intro r hr
  exact he ⟨c, hc⟩ ⟨r, hr⟩

theorem Grid.cell_clear (c : Fin 64) (r : Fin 32) : Grid.clear.cell c r = false := by
  simp [Grid.clear, Grid.cell]

theorem spriteColumn_lt (x0 : Byte) (a : Fin 64) : spriteColumn x0 a < 64 := Nat.mod_lt _ (by decide)

theorem spriteLine_lt (y0 : Byte) (b : Fin 32) : spriteLine y0 b < 32 := Nat.mod_lt _ (by decide)

/-- The grid column of sprite column `c` is the one whose sprite column is `c`. -/
theorem eq_drawColumn_iff (x0 : Byte) (a : Fin 64) (c : Nat) (hc : c < 64) :
    a = drawColumn x0 c ↔ spriteColumn x0 a = c := by
  have ha := a.isLt
  simp only [Fin.ext_iff, drawColumn, spriteColumn]
  omega

theorem eq_drawLine_iff (y0 : Byte) (b : Fin 32) (r : Nat) (hr : r < 32) :
    b = drawLine y0 r ↔ spriteLine y0 b = r := by
  have hb := b.isLt
  simp only [Fin.ext_iff, drawLine, spriteLine]
  omega

/-- What a run of columns of one sprite byte does to a cell: the bit over it is XORed in. -/
theorem cell_drawColumns (x0 : Byte) (py : Fin 32) (row : Byte) (c count : Nat) (acc : Grid × Bool)
    (a : Fin 64) (b : Fin 32) (h : c + count ≤ 64) :
    (drawColumns x0 py row c count acc).1.cell a b =
      (acc.1.cell a b ^^ (decide (b = py) && decide (c ≤ spriteColumn x0 a) && decide (spriteColumn x0 a < c + count) &&
        row.getLsbD (7 - spriteColumn x0 a))) := by
  induction count generalizing c acc with
  | zero =>
    by_cases h1 : c ≤ spriteColumn x0 a
    · have h2 : ¬ spriteColumn x0 a < c := by omega
      simp [drawColumns, h2]
    · simp [drawColumns, h1]
  | succ count ih =>
    rw [drawColumns, ih _ _ (by omega)]
    simp only [drawBit, Grid.cell_put, eq_drawColumn_iff x0 a c (by omega)]
    by_cases hs : spriteColumn x0 a = c
    · by_cases hb : b = py
      · subst hb; simp [hs, ← (eq_drawColumn_iff x0 a c (by omega)).mpr hs]
      · simp [hs, hb]
    · rw [if_neg (fun hc => hs hc.1)]
      have e1 : (c + 1 ≤ spriteColumn x0 a) = (c ≤ spriteColumn x0 a) := by apply propext; omega
      have e2 : (spriteColumn x0 a < c + 1 + count) = (spriteColumn x0 a < c + (count + 1)) := by apply propext; omega
      simp only [e1, e2]

/-- When a run of columns of one sprite byte collides: a 1 bit over a lit cell. -/
theorem collided_drawColumns (x0 : Byte) (py : Fin 32) (row : Byte) (c count : Nat) (acc : Grid × Bool)
    (h : c + count ≤ 64) :
    (drawColumns x0 py row c count acc).2 = true ↔
      acc.2 = true ∨ ∃ a : Fin 64, c ≤ spriteColumn x0 a ∧ spriteColumn x0 a < c + count ∧
        row.getLsbD (7 - spriteColumn x0 a) = true ∧ acc.1.cell a py = true := by
  induction count generalizing c acc with
  | zero => simp only [drawColumns]; constructor <;> intro hh; exact .inl hh; rcases hh with hh | ⟨a, _, _, _⟩; exact hh; omega
  | succ count ih =>
    have hcol : spriteColumn x0 (drawColumn x0 c) = c := (eq_drawColumn_iff x0 _ c (by omega)).mp rfl
    rw [drawColumns, ih _ _ (by omega)]
    simp only [drawBit, Grid.cell_put, Bool.or_eq_true, Bool.and_eq_true]
    constructor
    · rintro ((h1 | ⟨h1, h2⟩) | ⟨a, h1, h2, h3, h4⟩)
      · exact .inl h1
      · exact .inr ⟨drawColumn x0 c, by omega, by omega, by rwa [hcol], h2⟩
      · rw [if_neg (by rintro ⟨rfl, _⟩; omega)] at h4
        exact .inr ⟨a, by omega, by omega, h3, h4⟩
    · rintro (h1 | ⟨a, h1, h2, h3, h4⟩)
      · exact .inl (.inl h1)
      · by_cases ha : a = drawColumn x0 c
        · subst ha
          rw [hcol] at h3
          exact .inl (.inr ⟨h3, h4⟩)
        · have hne : spriteColumn x0 a ≠ c := fun hc => ha ((eq_drawColumn_iff x0 a c (by omega)).mpr hc)
          refine .inr ⟨a, by omega, by omega, h3, ?_⟩
          rwa [if_neg (fun hc => ha hc.1)]

/-- The bit over a cell of the sprite rows `rows` put from sprite row `r` on. -/
def bitFrom (x0 y0 : Byte) (r : Nat) (rows : List Byte) (a : Fin 64) (b : Fin 32) : Bool :=
  decide (spriteColumn x0 a < 8) && decide (r ≤ spriteLine y0 b) && decide (spriteLine y0 b < r + rows.length) &&
    (rows.getD (spriteLine y0 b - r) 0).getLsbD (7 - spriteColumn x0 a)

theorem bitFrom_cons_other (x0 y0 : Byte) (r : Nat) (row : Byte) (rows : List Byte) (a : Fin 64) (b : Fin 32)
    (h : spriteLine y0 b ≠ r) : bitFrom x0 y0 r (row :: rows) a b = bitFrom x0 y0 (r + 1) rows a b := by
  unfold bitFrom
  by_cases hr : r + 1 ≤ spriteLine y0 b
  · obtain ⟨d, hd⟩ : ∃ d, spriteLine y0 b = r + 1 + d := ⟨spriteLine y0 b - (r + 1), by omega⟩
    rw [hd]
    have e1 : r + 1 + d - (r + 1) = d := by omega
    have e2 : r + 1 + d - r = d + 1 := by omega
    have e3 : (r + 1 + d < r + (row :: rows).length) = (r + 1 + d < r + 1 + rows.length) := by
      apply propext; simp only [List.length_cons]; omega
    have e4 : (r ≤ r + 1 + d) = (r + 1 ≤ r + 1 + d) := by apply propext; omega
    rw [e1, e2, List.getD_cons_succ]
    simp only [e3, e4]
  · have : ¬ r ≤ spriteLine y0 b := by omega
    simp [hr, this]

theorem bitFrom_cons_same (x0 y0 : Byte) (r : Nat) (row : Byte) (rows : List Byte) (a : Fin 64) (b : Fin 32)
    (h : spriteLine y0 b = r) : bitFrom x0 y0 r (row :: rows) a b =
      (decide (spriteColumn x0 a < 8) && row.getLsbD (7 - spriteColumn x0 a)) := by
  unfold bitFrom
  simp [h]

theorem bitFrom_later (x0 y0 : Byte) (r : Nat) (rows : List Byte) (a : Fin 64) (b : Fin 32)
    (h : spriteLine y0 b < r) : bitFrom x0 y0 r rows a b = false := by
  unfold bitFrom
  have : ¬ r ≤ spriteLine y0 b := by omega
  simp [this]

/-- What drawing rows does to a cell: the bit over it is XORed in. -/
theorem cell_drawRows (x0 y0 : Byte) (r : Nat) (rows : List Byte) (acc : Grid × Bool) (a : Fin 64) (b : Fin 32)
    (h : r + rows.length ≤ 32) :
    (drawRows x0 y0 r rows acc).1.cell a b = (acc.1.cell a b ^^ bitFrom x0 y0 r rows a b) := by
  induction rows generalizing r acc with
  | nil =>
    have : bitFrom x0 y0 r [] a b = false := by unfold bitFrom; simp
    simp [drawRows, this]
  | cons row rows ih =>
    simp only [List.length_cons] at h
    rw [drawRows, ih _ _ (by omega), cell_drawColumns _ _ _ _ _ _ _ _ (by omega)]
    by_cases hl : spriteLine y0 b = r
    · have hb : b = drawLine y0 r := (eq_drawLine_iff y0 b r (by omega)).mpr hl
      rw [bitFrom_cons_same _ _ _ _ _ _ _ hl, bitFrom_later _ _ _ _ _ _ (by omega)]
      simp [hb]
    · have hb : b ≠ drawLine y0 r := fun hb => hl ((eq_drawLine_iff y0 b r (by omega)).mp hb)
      rw [bitFrom_cons_other _ _ _ _ _ _ _ hl]
      simp [hb]

/-- When drawing rows collides: a 1 bit over a lit cell. -/
theorem collided_drawRows (x0 y0 : Byte) (r : Nat) (rows : List Byte) (acc : Grid × Bool) (h : r + rows.length ≤ 32) :
    (drawRows x0 y0 r rows acc).2 = true ↔
      acc.2 = true ∨ ∃ a b, bitFrom x0 y0 r rows a b = true ∧ acc.1.cell a b = true := by
  induction rows generalizing r acc with
  | nil =>
    have : ∀ a b, bitFrom x0 y0 r [] a b = false := by intro a b; unfold bitFrom; simp
    simp [drawRows, this]
  | cons row rows ih =>
    simp only [List.length_cons] at h
    have hline : spriteLine y0 (drawLine y0 r) = r := (eq_drawLine_iff y0 _ r (by omega)).mp rfl
    rw [drawRows, ih _ _ (by omega), collided_drawColumns _ _ _ _ _ _ (by omega)]
    constructor
    · rintro ((h1 | ⟨a, h1, h2, h3, h4⟩) | ⟨a, b, h1, h2⟩)
      · exact .inl h1
      · refine .inr ⟨a, drawLine y0 r, ?_, h4⟩
        rw [bitFrom_cons_same _ _ _ _ _ _ _ hline]
        have : spriteColumn x0 a < 8 := by omega
        simp [h3, this]
      · have hl : spriteLine y0 b ≠ r := by
          intro hl; rw [bitFrom_later _ _ _ _ _ _ (by omega)] at h1; simp at h1
        have hb : b ≠ drawLine y0 r := fun hb => hl ((eq_drawLine_iff y0 b r (by omega)).mp hb)
        rw [cell_drawColumns _ _ _ _ _ _ _ _ (by omega)] at h2
        refine .inr ⟨a, b, ?_, by simpa [hb] using h2⟩
        rwa [bitFrom_cons_other _ _ _ _ _ _ _ hl]
    · rintro (h1 | ⟨a, b, h1, h2⟩)
      · exact .inl (.inl h1)
      · by_cases hl : spriteLine y0 b = r
        · have hb : b = drawLine y0 r := (eq_drawLine_iff y0 b r (by omega)).mpr hl
          rw [bitFrom_cons_same _ _ _ _ _ _ _ hl] at h1
          simp only [Bool.and_eq_true, decide_eq_true_eq] at h1
          exact .inl (.inr ⟨a, by omega, by omega, h1.2, hb ▸ h2⟩)
        · have hb : b ≠ drawLine y0 r := fun hb => hl ((eq_drawLine_iff y0 b r (by omega)).mp hb)
          refine .inr ⟨a, b, by rwa [← bitFrom_cons_other _ _ _ row _ _ _ hl], ?_⟩
          rw [cell_drawColumns _ _ _ _ _ _ _ _ (by omega)]
          simpa [hb] using h2

theorem bitFrom_zero (x0 y0 : Byte) (rows : List Byte) (a : Fin 64) (b : Fin 32) :
    bitFrom x0 y0 0 rows a b = spriteBit x0 y0 rows a b := by
  simp [bitFrom, spriteBit]

/-- Drawing a sprite XORs its bits into the cells they lie over (rule R171). -/
theorem cell_drawSprite (g : Grid) (x0 y0 : Byte) (rows : List Byte) (a : Fin 64) (b : Fin 32) (h : rows.length ≤ 32) :
    (drawSprite g x0 y0 rows).1.cell a b = (g.cell a b ^^ spriteBit x0 y0 rows a b) := by
  rw [drawSprite, cell_drawRows _ _ _ _ _ _ _ (by omega), bitFrom_zero]

/-- Drawing a sprite collides exactly when a 1 bit of it lies over a lit cell (rule R171). -/
theorem collided_drawSprite (g : Grid) (x0 y0 : Byte) (rows : List Byte) (h : rows.length ≤ 32) :
    (drawSprite g x0 y0 rows).2 = true ↔ ∃ a b, spriteBit x0 y0 rows a b = true ∧ g.cell a b = true := by
  rw [drawSprite, collided_drawRows _ _ _ _ _ (by omega)]
  simp [bitFrom_zero]

end Sys2Proof.Machine
end

