-- ==== Sys2Proof/Laws/Memory.lean ====
section
/-! SUPPORT. The laws of memory: read after write, and that every operation keeps the canonical form. -/

namespace Sys2Proof.Machine

variable {image : Nat → Byte} {m : List Host.Cell} {a c lo : Nat} {w : Byte}

/-! ## Read after write -/

theorem memLookup_memErase : memLookup (memErase m a) c = if c = a then none else memLookup m c := by
  induction m with
  | nil => simp [memErase, memLookup]
  | cons e m ih =>
    obtain ⟨b, v⟩ := e
    by_cases hab : a = b <;> by_cases hcb : c = b <;> simp_all [memErase, memLookup, eq_comm]

theorem memLookup_memInsert : memLookup (memInsert m a w) c = if c = a then some w else memLookup m c := by
  induction m with
  | nil => simp [memInsert, memLookup]
  | cons e m ih =>
    obtain ⟨b, v⟩ := e
    rcases Nat.lt_trichotomy a b with hab | hab | hab
    · simp [memInsert, memLookup, hab]
    · subst hab; by_cases hc : c = a <;> simp [memInsert, memLookup, hc]
    · have h1 : ¬ a < b := by omega
      have h2 : a ≠ b := by omega
      by_cases hc : c = b
      · have h3 : c ≠ a := by omega
        simp [memInsert, memLookup, h1, h2, hc, Ne.symm h2]
      · simp [memInsert, memLookup, h1, h2, hc, ih]

/-- A read after a write: the byte written at that address, every other byte as before. -/
theorem memRead_memWrite :
    memRead image (memWrite image m a w) c = if c = a then w else memRead image m c := by
  unfold memWrite memRead
  split
  · rename_i hw
    rw [memLookup_memErase]
    split
    · rename_i hc; simp [hc, hw]
    · rfl
  · rw [memLookup_memInsert]
    split <;> rfl

/-- A read after a load: the bytes loaded from `lo` up, every other byte as before. -/
theorem memRead_memLoad (bs : List Byte) :
    memRead image (memLoad image m lo bs) c =
      if lo ≤ c ∧ c < lo + bs.length then bs.getD (c - lo) 0 else memRead image m c := by
  induction bs generalizing lo with
  | nil => rw [if_neg (by simp)]; rfl
  | cons b bs ih =>
    rw [memLoad, memRead_memWrite, ih]
    by_cases hc : c = lo
    · subst hc; simp
    · by_cases h : lo + 1 ≤ c ∧ c < lo + 1 + bs.length
      · have h2 : lo ≤ c ∧ c < lo + (b :: bs).length := by simp only [List.length_cons]; omega
        obtain ⟨d, rfl⟩ : ∃ d, c = lo + 1 + d := ⟨c - (lo + 1), by omega⟩
        rw [if_neg hc, if_pos h, if_pos h2]
        have e1 : lo + 1 + d - (lo + 1) = d := by omega
        have e2 : lo + 1 + d - lo = d + 1 := by omega
        rw [e1, e2, List.getD_cons_succ]
      · have h2 : ¬ (lo ≤ c ∧ c < lo + (b :: bs).length) := by simp only [List.length_cons]; omega
        rw [if_neg hc, if_neg h, if_neg h2]

/-! ## The canonical form -/

theorem memWfFrom_mono (h : memWfFrom image lo m = true) (hle : c ≤ lo) : memWfFrom image c m = true := by
  cases m with
  | nil => rfl
  | cons e m =>
    obtain ⟨b, v⟩ := e
    simp only [memWfFrom, Bool.and_eq_true, decide_eq_true_eq] at h ⊢
    exact ⟨⟨⟨by omega, h.1.1.2⟩, h.1.2⟩, h.2⟩

theorem memWfFrom_memErase (h : memWfFrom image lo m = true) : memWfFrom image lo (memErase m a) = true := by
  induction m generalizing lo with
  | nil => rfl
  | cons e m ih =>
    obtain ⟨b, v⟩ := e
    simp only [memWfFrom, Bool.and_eq_true, decide_eq_true_eq] at h
    unfold memErase
    split
    · exact memWfFrom_mono (ih h.2) (by omega)
    · simp only [memWfFrom, Bool.and_eq_true, decide_eq_true_eq]
      exact ⟨h.1, ih h.2⟩

theorem memWfFrom_memInsert (h : memWfFrom image lo m = true) (hlo : lo ≤ a) (ha : a < 4096) (hw : w ≠ image a) :
    memWfFrom image lo (memInsert m a w) = true := by
  induction m generalizing lo with
  | nil => simp [memInsert, memWfFrom, hlo, ha, hw]
  | cons e m ih =>
    obtain ⟨b, v⟩ := e
    simp only [memWfFrom, Bool.and_eq_true, decide_eq_true_eq] at h
    unfold memInsert
    split
    · simp only [memWfFrom, Bool.and_eq_true, decide_eq_true_eq]
      exact ⟨⟨⟨hlo, ha⟩, hw⟩, ⟨⟨by omega, h.1.1.2⟩, h.1.2⟩, h.2⟩
    · split
      · rename_i hab
        simp only [memWfFrom, Bool.and_eq_true, decide_eq_true_eq]
        exact ⟨⟨⟨hlo, ha⟩, hw⟩, hab ▸ h.2⟩
      · simp only [memWfFrom, Bool.and_eq_true, decide_eq_true_eq]
        exact ⟨h.1, ih h.2 (by omega)⟩

/-- A write keeps the canonical form. -/
theorem memWf_memWrite (h : memWf image m = true) (ha : a < 4096) : memWf image (memWrite image m a w) = true := by
  unfold memWrite
  split
  · exact memWfFrom_memErase h
  · exact memWfFrom_memInsert h (Nat.zero_le _) ha ‹_›

/-- A load that ends inside memory keeps the canonical form. -/
theorem memWf_memLoad (bs : List Byte) (h : memWf image m = true) (hend : lo + bs.length ≤ 4096) :
    memWf image (memLoad image m lo bs) = true := by
  induction bs generalizing lo with
  | nil => exact h
  | cons b bs ih =>
    simp only [List.length_cons] at hend
    exact memWf_memWrite (ih (by omega)) (by omega)

theorem memWf_nil : memWf image [] = true := rfl

/-! ## Memory of a state -/

/-- A byte after a raw write. -/
theorem State.readByte_pokeByte (s : State) (a c : Addr) (b : Byte) :
    (s.pokeByte a b).readByte c = if c = a then b else s.readByte c := by
  have h : (s.pokeByte a b).readByte c = memRead s.image (memWrite s.image s.mem a.val b) c.val := rfl
  rw [h, memRead_memWrite]
  simp only [Fin.ext_iff]
  rfl

/-- A byte after an instruction's write: the byte written where the write is performed, else as before. -/
theorem State.readByte_writeByte (s : State) (a c : Addr) (b : Byte) :
    (s.writeByte a b).readByte c = if c = a ∧ s.writable a = true then b else s.readByte c := by
  unfold State.writeByte
  split
  · rename_i h; simp [State.readByte_pokeByte, h]
  · rename_i h; simp [h]

/-- A raw write keeps the canonical form of memory. -/
theorem State.pokeByte_memWf {s : State} (h : memWf s.image s.mem = true) (a : Addr) (b : Byte) :
    memWf (s.pokeByte a b).image (s.pokeByte a b).mem = true :=
  memWf_memWrite h a.isLt

/-- An instruction's write keeps the canonical form of memory. -/
theorem State.writeByte_memWf {s : State} (h : memWf s.image s.mem = true) (a : Addr) (b : Byte) :
    memWf (s.writeByte a b).image (s.writeByte a b).mem = true := by
  unfold State.writeByte
  split
  · exact State.pokeByte_memWf h a b
  · exact h

/-- Writes one after the other keep the canonical form of memory. -/
theorem State.writeBytes_memWf {s : State} (h : memWf s.image s.mem = true) (as : List Addr) (bs : List Byte) :
    memWf (s.writeBytes as bs).image (s.writeBytes as bs).mem = true := by
  induction as generalizing s bs with
  | nil => exact h
  | cons a as ih =>
    cases bs with
    | nil => exact h
    | cons b bs => exact ih (State.writeByte_memWf h a b) bs

/-- A byte that no write of the list names is as before. -/
theorem State.readByte_writeBytes_of_notMem (s : State) (as : List Addr) (bs : List Byte) (c : Addr) (h : c ∉ as) :
    (s.writeBytes as bs).readByte c = s.readByte c := by
  induction as generalizing s bs with
  | nil => rfl
  | cons a as ih =>
    cases bs with
    | nil => rfl
    | cons b bs =>
      simp only [List.mem_cons, not_or] at h
      rw [State.writeBytes, ih _ _ h.2, State.readByte_writeByte, if_neg (fun hc => h.1 hc.1)]

/-- A byte that may not be written is as before. -/
theorem State.readByte_writeBytes_of_protected (s : State) (as : List Addr) (bs : List Byte) (c : Addr)
    (h : s.writable c = false) : (s.writeBytes as bs).readByte c = s.readByte c := by
  induction as generalizing s bs with
  | nil => rfl
  | cons a as ih =>
    cases bs with
    | nil => rfl
    | cons b bs =>
      rw [State.writeBytes, ih _ _ (by simpa using h), State.readByte_writeByte, if_neg]
      rintro ⟨rfl, hw⟩
      simp [h] at hw

end Sys2Proof.Machine
end

