-- ==== Sys2Proof/Laws/Operands.lean ====
section
/-! SUPPORT. The laws of the registers, of the address span and of the transfers along it. -/

namespace Sys2Proof.Machine

/-! ## Registers -/

/-- A register after a write. -/
theorem State.reg_setReg (s : State) (x r : Reg) (b : Byte) :
    (s.setReg x b).reg r = if r = x then b else s.reg r := by
  simp only [State.reg, State.setReg, Vector.getElem_set, Fin.ext_iff, eq_comm]

/-- A register after a flag write. -/
theorem State.reg_setFlag (s : State) (f : Bool) (r : Reg) :
    (s.setFlag f).reg r = if r = Reg.vf then (if f then 1 else 0) else s.reg r :=
  State.reg_setReg s _ r _

/-- A register after a result and a flag: the flag wins in VF. -/
theorem State.reg_setRegFlag (s : State) (x r : Reg) (p : Byte × Bool) :
    (s.setRegFlag x p).reg r = if r = Reg.vf then (if p.2 then 1 else 0) else if r = x then p.1 else s.reg r := by
  rw [State.setRegFlag, State.reg_setFlag, State.reg_setReg]

/-- A result and a flag change nothing but V. -/
theorem State.setRegFlag_eq (s : State) (x : Reg) (p : Byte × Bool) :
    s.setRegFlag x p = { s with v := (s.setRegFlag x p).v } := rfl

/-- Two register files with the same registers are the same. -/
theorem State.v_ext {s t : State} (h : ∀ r, s.reg r = t.reg r) : s.v = t.v := by
  apply Vector.ext
  intro k hk
  exact h ⟨k, hk⟩

/-! ## Keys -/

/-- A key after a write (45_keys_timers.md, 60_exceptions.md rule R352). -/
theorem State.key_putKey (s : State) (k l : Key) (p : Bool) :
    (s.putKey k p).key l = if l = k then p else s.key l := by
  simp only [State.key, State.putKey, Vector.getElem_set, Fin.ext_iff, eq_comm]

/-! ## The span of an access (20_memory.md rule R85) -/

/-- How many accesses are performed: `min(count, 0x1000 - base)`. -/
theorem spanFrom_length (base count : Nat) : (spanFrom base count).length = min count (4096 - base) := by
  induction count generalizing base with
  | zero => simp [spanFrom]
  | succ count ih =>
    unfold spanFrom
    split
    · simp only [List.length_cons, ih]; omega
    · simp; omega

/-- The access at offset `j` is at `base + j`. -/
theorem spanFrom_getElem (base count j : Nat) (h : j < (spanFrom base count).length) :
    ((spanFrom base count)[j]).val = base + j := by
  induction count generalizing base j with
  | zero => simp [spanFrom] at h
  | succ count ih =>
    unfold spanFrom at h ⊢
    split at h
    · rename_i hb
      simp only [hb, ↓reduceDIte]
      cases j with
      | zero => rfl
      | succ j =>
        simp only [List.getElem_cons_succ]
        rw [ih]; omega
    · simp at h

/-- The addresses of a span are those from `base` up, `count` of them, inside memory. -/
theorem mem_spanFrom (base count : Nat) (a : Addr) : a ∈ spanFrom base count ↔ base ≤ a.val ∧ a.val < base + count := by
  induction count generalizing base with
  | zero => simp [spanFrom]
  | succ count ih =>
    have ha := a.isLt
    unfold spanFrom
    split
    · simp only [List.mem_cons, ih, Fin.ext_iff]; omega
    · simp; omega

/-- A byte after writes along a span: the byte of its offset where there is one and the write is performed, else as
before. -/
theorem State.readByte_writeBytes_span (s : State) (base count : Nat) (bs : List Byte) (a : Addr) :
    (s.writeBytes (spanFrom base count) bs).readByte a =
      if base ≤ a.val ∧ a.val < base + count ∧ a.val - base < bs.length ∧ s.writable a = true
      then bs.getD (a.val - base) 0 else s.readByte a := by
  induction count generalizing base bs s with
  | zero =>
    rw [if_neg (by omega)]
    rfl
  | succ count ih =>
    unfold spanFrom
    split
    · rename_i hb
      cases bs with
      | nil => simp [State.writeBytes]
      | cons b bs =>
        rw [State.writeBytes, ih]
        simp only [State.writeByte_writable, State.readByte_writeByte, Fin.ext_iff, List.length_cons]
        by_cases hab : a.val = base
        · have haeq : (⟨base, hb⟩ : Addr) = a := Fin.ext hab.symm
          rw [haeq, if_neg (by omega)]
          by_cases hw : s.writable a = true
          · rw [if_pos ⟨hab, hw⟩, if_pos ⟨by omega, by omega, by omega, hw⟩]
            simp [hab]
          · rw [if_neg (fun h => hw h.2), if_neg (fun h => hw h.2.2.2)]
        · by_cases hcond : base + 1 ≤ a.val ∧ a.val < base + 1 + count ∧ a.val - (base + 1) < bs.length ∧ s.writable a = true
          · obtain ⟨h1, h2, h3, h4⟩ := hcond
            rw [if_pos ⟨h1, h2, h3, h4⟩, if_pos ⟨by omega, by omega, by omega, h4⟩]
            obtain ⟨d, hd⟩ : ∃ d, a.val = base + 1 + d := ⟨a.val - (base + 1), by omega⟩
            have e1 : a.val - (base + 1) = d := by omega
            have e2 : a.val - base = d + 1 := by omega
            rw [e1, e2, List.getD_cons_succ]
          · rw [if_neg hcond, if_neg (fun h => hab h.1), if_neg]
            rintro ⟨h1, h2, h3, h4⟩
            exact hcond ⟨by omega, by omega, by omega, h4⟩
    · have := a.isLt
      rw [if_neg (by omega)]
      rfl

/-! ## Registers loaded one after the other (44_index_memory.md rule R265) -/

theorem State.reg_setRegs_of_notMem (s : State) (rs : List Reg) (bs : List Byte) (r : Reg) (h : r ∉ rs) :
    (s.setRegs rs bs).reg r = s.reg r := by
  induction rs generalizing s bs with
  | nil => rfl
  | cons x rs ih =>
    cases bs with
    | nil => rfl
    | cons b bs =>
      simp only [List.mem_cons, not_or] at h
      rw [State.setRegs, ih _ _ h.2, State.reg_setReg, if_neg h.1]

/-- The register at position `j` of a list without repeats takes the byte at position `j`. -/
theorem State.reg_setRegs_getElem (s : State) (rs : List Reg) (bs : List Byte) (hnd : rs.Nodup) (j : Nat)
    (hj : j < rs.length) : (s.setRegs rs bs).reg rs[j] = if j < bs.length then bs.getD j 0 else s.reg rs[j] := by
  induction rs generalizing s bs j with
  | nil => simp at hj
  | cons x rs ih =>
    have hx := (List.nodup_cons.mp hnd).1
    have hrs := (List.nodup_cons.mp hnd).2
    cases bs with
    | nil => simp [State.setRegs]
    | cons b bs =>
      cases j with
      | zero =>
        simp only [List.getElem_cons_zero, State.setRegs]
        rw [State.reg_setRegs_of_notMem _ _ _ _ hx, State.reg_setReg]
        simp
      | succ j =>
        have hj' : j < rs.length := by simpa using hj
        have hne : rs[j] ≠ x := fun h => hx (h ▸ List.getElem_mem hj')
        simp only [List.getElem_cons_succ, State.setRegs, List.length_cons, Nat.add_lt_add_iff_right,
          List.getD_cons_succ]
        rw [ih _ _ hrs _ hj', State.reg_setReg, if_neg hne]

theorem regsUpTo_length (x : Reg) : (regsUpTo x).length = x.val + 1 := by
  simp [regsUpTo]

theorem regsUpTo_getElem (x : Reg) (j : Nat) (h : j < (regsUpTo x).length) : ((regsUpTo x)[j]).val = j := by
  simp [regsUpTo]

theorem regsUpTo_nodup (x : Reg) : (regsUpTo x).Nodup := (List.nodup_finRange 16).sublist (List.take_sublist _ _)

theorem mem_regsUpTo (x r : Reg) : r ∈ regsUpTo x ↔ r.val ≤ x.val := by
  constructor
  · intro h
    obtain ⟨j, hj, rfl⟩ := List.getElem_of_mem h
    have := regsUpTo_length x
    rw [regsUpTo_getElem]; omega
  · intro h
    have hl : r.val < (regsUpTo x).length := by rw [regsUpTo_length]; omega
    have : (regsUpTo x)[r.val] = r := Fin.ext (regsUpTo_getElem x r.val hl)
    exact this ▸ List.getElem_mem hl

/-- V0 to Vx loaded with bytes: register `r` takes byte `r` where there is one. -/
theorem State.reg_setRegs_regsUpTo (s : State) (x r : Reg) (bs : List Byte) :
    (s.setRegs (regsUpTo x) bs).reg r =
      if r.val ≤ x.val ∧ r.val < bs.length then bs.getD r.val 0 else s.reg r := by
  by_cases h : r.val ≤ x.val
  · have hl : r.val < (regsUpTo x).length := by rw [regsUpTo_length]; omega
    have hr : (regsUpTo x)[r.val] = r := Fin.ext (regsUpTo_getElem x r.val hl)
    have := State.reg_setRegs_getElem s (regsUpTo x) bs (regsUpTo_nodup x) r.val hl
    rw [hr] at this
    rw [this]
    simp [h]
  · rw [State.reg_setRegs_of_notMem _ _ _ _ (by rwa [mem_regsUpTo]), if_neg (fun hc => h hc.1)]

/-! ## The status of a clamped access, and the stack -/

/-- The truncated count of rule R85. -/
theorem clampCount_lt_iff (i : Word) (count : Nat) : clampCount i count < count ↔ 4096 < i.toNat + count ∧ 0 < count := by
  unfold clampCount; omega

/-- Push: with room the value goes to `S[SP]` and SP rises by one; with SP = 16 there is none. -/
theorem State.push_cases (s : State) (v : Word) :
    (∃ h : s.sp.val < 16, s.push v =
      some { s with stack := s.stack.set s.sp.val v, sp := ⟨s.sp.val + 1, by omega⟩ }) ∨
    (s.sp.val = 16 ∧ s.push v = none) := by
  by_cases h : s.sp.val < 16
  · exact .inl ⟨h, by simp [State.push, h]⟩
  · exact .inr ⟨by have := s.sp.isLt; omega, by simp [State.push, h]⟩

/-- Pop: with an entry SP falls by one and the entry's value comes out; with SP = 0 there is none. -/
theorem State.pop_cases (s : State) :
    (∃ h : 0 < s.sp.val, s.pop =
      some (s.stack[s.sp.val - 1]'(by omega), { s with sp := ⟨s.sp.val - 1, by omega⟩ })) ∨
    (s.sp.val = 0 ∧ s.pop = none) := by
  by_cases h : 0 < s.sp.val
  · exact .inl ⟨h, by simp [State.pop, h]⟩
  · exact .inr ⟨by omega, by simp [State.pop, h]⟩

end Sys2Proof.Machine
end

