-- ==== Sys2Proof/Laws/PerInstr.lean ====
section
/-! SUPPORT. Per instruction: its encoded word selects its own row of the opcode map (30_encoding.md rule R113). -/

namespace Sys2Proof.Laws.EncodedWord

/-- The word of the instruction selects the instruction's row: `word & mask = match`. -/
def Statement (i : Instr) : Prop := i.row.selects (encode i) = true

/-- A word of format A selects a row that fixes its class. -/
theorem selects_classRow {v : Word} (c : BitVec 4) (nnn : BitVec 12) (hv : wordA c 0 = v) :
    (OpcodeRow.mk v 0xF000).selects (wordA c nnn) = true := by
  unfold OpcodeRow.selects
  rw [word_and_F000]
  simpa using hv

/-- A word of format RI selects a row that fixes its class. -/
theorem selects_classRow_RI {v : Word} (c : BitVec 4) (x : Reg) (nn : Byte) (hv : wordA c 0 = v) :
    (OpcodeRow.mk v 0xF000).selects (wordRI c x nn) = true := by
  unfold OpcodeRow.selects
  rw [word_and_F000]
  simpa using hv

/-- A word of format RRN selects a row that fixes its class. -/
theorem selects_classRow_RRN {v : Word} (c : BitVec 4) (x y : Reg) (n : BitVec 4) (hv : wordA c 0 = v) :
    (OpcodeRow.mk v 0xF000).selects (wordRRN c x y n) = true := by
  unfold OpcodeRow.selects
  rw [word_and_F000]
  simpa using hv

/-- A word of format RR selects a row that fixes its class and its low nibble. -/
theorem selects_nibbleRow {v : Word} (c : BitVec 4) (x y : Reg) (n : BitVec 4) (hv : wordRRN c 0 0 n = v) :
    (OpcodeRow.mk v 0xF00F).selects (wordRRN c x y n) = true := by
  unfold OpcodeRow.selects
  rw [word_and_F00F]
  simpa using hv

/-- A word of format R selects a row that fixes its class and its low byte. -/
theorem selects_byteRow {v : Word} (c : BitVec 4) (x : Reg) (nn : Byte) (hv : wordRI c 0 nn = v) :
    (OpcodeRow.mk v 0xF0FF).selects (wordRI c x nn) = true := by
  unfold OpcodeRow.selects
  rw [word_and_F0FF]
  simpa using hv

theorem cls : Statement .cls := by unfold Statement; decide
theorem ret : Statement .ret := by unfold Statement; decide
theorem jp (nnn : BitVec 12) : Statement (.jp nnn) := selects_classRow 0x1 nnn (by decide)
theorem call (nnn : BitVec 12) : Statement (.call nnn) := selects_classRow 0x2 nnn (by decide)
theorem seImm (x : Reg) (nn : Byte) : Statement (.seImm x nn) := selects_classRow_RI 0x3 x nn (by decide)
theorem sneImm (x : Reg) (nn : Byte) : Statement (.sneImm x nn) := selects_classRow_RI 0x4 x nn (by decide)
theorem seReg (x y : Reg) : Statement (.seReg x y) := selects_nibbleRow 0x5 x y 0x0 (by decide)
theorem ldImm (x : Reg) (nn : Byte) : Statement (.ldImm x nn) := selects_classRow_RI 0x6 x nn (by decide)
theorem addImm (x : Reg) (nn : Byte) : Statement (.addImm x nn) := selects_classRow_RI 0x7 x nn (by decide)
theorem ldReg (x y : Reg) : Statement (.ldReg x y) := selects_nibbleRow 0x8 x y 0x0 (by decide)
theorem orReg (x y : Reg) : Statement (.orReg x y) := selects_nibbleRow 0x8 x y 0x1 (by decide)
theorem andReg (x y : Reg) : Statement (.andReg x y) := selects_nibbleRow 0x8 x y 0x2 (by decide)
theorem xorReg (x y : Reg) : Statement (.xorReg x y) := selects_nibbleRow 0x8 x y 0x3 (by decide)
theorem addReg (x y : Reg) : Statement (.addReg x y) := selects_nibbleRow 0x8 x y 0x4 (by decide)
theorem subReg (x y : Reg) : Statement (.subReg x y) := selects_nibbleRow 0x8 x y 0x5 (by decide)
theorem shr (x y : Reg) : Statement (.shr x y) := selects_nibbleRow 0x8 x y 0x6 (by decide)
theorem subnReg (x y : Reg) : Statement (.subnReg x y) := selects_nibbleRow 0x8 x y 0x7 (by decide)
theorem shl (x y : Reg) : Statement (.shl x y) := selects_nibbleRow 0x8 x y 0xE (by decide)
theorem sneReg (x y : Reg) : Statement (.sneReg x y) := selects_nibbleRow 0x9 x y 0x0 (by decide)
theorem ldI (nnn : BitVec 12) : Statement (.ldI nnn) := selects_classRow 0xA nnn (by decide)
theorem jpV0 (nnn : BitVec 12) : Statement (.jpV0 nnn) := selects_classRow 0xB nnn (by decide)
theorem rnd (x : Reg) (nn : Byte) : Statement (.rnd x nn) := selects_classRow_RI 0xC x nn (by decide)
theorem drw (x y : Reg) (n : BitVec 4) : Statement (.drw x y n) := selects_classRow_RRN 0xD x y n (by decide)
theorem skp (x : Reg) : Statement (.skp x) := selects_byteRow 0xE x 0x9E (by decide)
theorem sknp (x : Reg) : Statement (.sknp x) := selects_byteRow 0xE x 0xA1 (by decide)
theorem ldVxDT (x : Reg) : Statement (.ldVxDT x) := selects_byteRow 0xF x 0x07 (by decide)
theorem ldVxK (x : Reg) : Statement (.ldVxK x) := selects_byteRow 0xF x 0x0A (by decide)
theorem ldDTVx (x : Reg) : Statement (.ldDTVx x) := selects_byteRow 0xF x 0x15 (by decide)
theorem ldSTVx (x : Reg) : Statement (.ldSTVx x) := selects_byteRow 0xF x 0x18 (by decide)
theorem addI (x : Reg) : Statement (.addI x) := selects_byteRow 0xF x 0x1E (by decide)
theorem ldF (x : Reg) : Statement (.ldF x) := selects_byteRow 0xF x 0x29 (by decide)
theorem ldB (x : Reg) : Statement (.ldB x) := selects_byteRow 0xF x 0x33 (by decide)
theorem storeRegs (x : Reg) : Statement (.storeRegs x) := selects_byteRow 0xF x 0x55 (by decide)
theorem loadRegs (x : Reg) : Statement (.loadRegs x) := selects_byteRow 0xF x 0x65 (by decide)

end Sys2Proof.Laws.EncodedWord
end

