-- ==== Sys2Proof/Laws/Step.lean ====
section
/-! SUPPORT. What a step can do: one lemma per branch of the cycle (40_cycle.md rule R154), and the status of a clamped
access. -/

namespace Sys2Proof.Machine

variable {s : State}

/-- A step performs the operation that comes next, on the state without it in the schedule. -/
theorem step_of_nextCall {call : HostCall} (h : s.nextCall = call) : step s = perform call s.dropCall := by
  rw [step, h]

/-- Rule R140. -/
theorem cycle_of_halted {c : Cause} (h : s.halt = some c) : cycle s = .next (s.answer (.status (.halted c))) := by
  simp only [cycle, h]

/-- Rule R141. -/
theorem cycle_of_waiting {x : Reg} (hh : s.halt = none) (hw : s.wait = some x) (hl : s.latch = none) :
    cycle s = .next (s.answer (.status .waiting)) := by
  simp only [cycle, hh, hw, hl]

/-- Rule R142. -/
theorem cycle_of_latched {x : Reg} {k : Key} (hh : s.halt = none) (hw : s.wait = some x) (hl : s.latch = some k) :
    cycle s = .next (s.completeWait x k) := by
  simp only [cycle, hh, hw, hl]

/-- A cycle neither halted nor waiting fetches. -/
theorem cycle_of_idle (hh : s.halt = none) (hw : s.wait = none) : cycle s = fetchExecute s := by
  simp only [cycle, hh, hw]

/-- Every cycle is one of the four. -/
theorem cycle_cases (s : State) :
    (∃ c, s.halt = some c ∧ cycle s = .next (s.answer (.status (.halted c)))) ∨
    (∃ x, s.halt = none ∧ s.wait = some x ∧ s.latch = none ∧ cycle s = .next (s.answer (.status .waiting))) ∨
    (∃ x k, s.halt = none ∧ s.wait = some x ∧ s.latch = some k ∧ cycle s = .next (s.completeWait x k)) ∨
    (s.halt = none ∧ s.wait = none ∧ cycle s = fetchExecute s) := by
  cases hh : s.halt with
  | some c => exact .inl ⟨c, rfl, cycle_of_halted hh⟩
  | none =>
    cases hw : s.wait with
    | none => exact .inr (.inr (.inr ⟨rfl, rfl, cycle_of_idle hh hw⟩))
    | some x =>
      cases hl : s.latch with
      | none => exact .inr (.inl ⟨x, rfl, rfl, rfl, cycle_of_waiting hh hw hl⟩)
      | some k => exact .inr (.inr (.inl ⟨x, k, rfl, rfl, rfl, cycle_of_latched hh hw hl⟩))

/-- The two bytes a fetch reads (rule R144). -/
theorem State.fetchBytes_of_lt (h : s.pc.toNat + 1 < 4096) :
    s.fetchBytes = some (s.readByte ⟨s.pc.toNat, Nat.lt_of_succ_lt h⟩, s.readByte ⟨s.pc.toNat + 1, h⟩) := by
  simp [State.fetchBytes, h]

/-- Rule R143. -/
theorem fetchExecute_of_outOfRange (h : ¬ s.pc.toNat + 1 < 4096) :
    fetchExecute s = .next (s.raise (.pcOutOfRange s.pc)) := by
  simp [fetchExecute, State.fetchBytes, h]

/-- Rules R144 to R148. -/
theorem fetchExecute_of_decode {i : Instr} (h : s.pc.toNat + 1 < 4096)
    (hd : decode (wordOfBytes (s.readByte ⟨s.pc.toNat, Nat.lt_of_succ_lt h⟩) (s.readByte ⟨s.pc.toNat + 1, h⟩)) = .ok i) :
    fetchExecute s = exec i s.advance := by
  simp only [fetchExecute, State.fetchBytes_of_lt h, hd]

/-- Rule R147. -/
theorem fetchExecute_of_unmapped {e : DecodeError} (h : s.pc.toNat + 1 < 4096)
    (hd : decode (wordOfBytes (s.readByte ⟨s.pc.toNat, Nat.lt_of_succ_lt h⟩) (s.readByte ⟨s.pc.toNat + 1, h⟩)) =
      .error e) :
    fetchExecute s = execUnmapped
      (wordOfBytes (s.readByte ⟨s.pc.toNat, Nat.lt_of_succ_lt h⟩) (s.readByte ⟨s.pc.toNat + 1, h⟩)) s.advance := by
  simp only [fetchExecute, State.fetchBytes_of_lt h, hd]

/-- The address of the instruction being executed is where it was fetched (rule R145). -/
theorem State.advance_instrAddr (s : State) : s.advance.instrAddr = s.pc := by
  simp [State.advance, State.instrAddr]

/-- Every fetching cycle ends in one of three ways. -/
theorem fetchExecute_cases (s : State) :
    (0x0FFE < s.pc.toNat ∧ fetchExecute s = .next (s.raise (.pcOutOfRange s.pc))) ∨
    (s.pc.toNat ≤ 0x0FFE ∧ ∃ op, fetchExecute s = execUnmapped op s.advance) ∨
    (s.pc.toNat ≤ 0x0FFE ∧ ∃ i, fetchExecute s = exec i s.advance) := by
  by_cases h : s.pc.toNat + 1 < 4096
  · cases hd : decode (wordOfBytes (s.readByte ⟨s.pc.toNat, Nat.lt_of_succ_lt h⟩) (s.readByte ⟨s.pc.toNat + 1, h⟩)) with
    | error e => exact .inr (.inl ⟨by omega, _, fetchExecute_of_unmapped h hd⟩)
    | ok i => exact .inr (.inr ⟨by omega, i, fetchExecute_of_decode h hd⟩)
  · exact .inl ⟨by omega, fetchExecute_of_outOfRange h⟩

/-- The status of a clamped access from an index inside memory (20_memory.md rule R85). -/
theorem State.flagClamp_result (s : State) (op : Word) (count : Nat) (h : s.i.toNat ≤ 0x0FFF) :
    (s.flagClamp op count).result = clampedResult s op count := by
  rw [State.flagClamp_eq, State.answer_result]
  unfold clampedResult
  by_cases hc : 0x1000 < s.i.toNat + count
  · rw [if_pos ((clampCount_lt_iff _ _).mpr ⟨hc, by omega⟩), if_pos hc]
    unfold clampCount
    have : s.i.toNat + min count (0x1000 - s.i.toNat) = 0x1000 := by omega
    rw [this]; rfl
  · rw [if_neg hc, if_neg]
    rw [clampCount_lt_iff]
    omega

/-! ## The meanings that do more than one thing, each as one update of the state it starts from -/

/-- A skip only sets PC (42_flow.md rule R195). -/
theorem State.skipIf_eq (s : State) (c : Bool) : s.skipIf c = s.setPc (if c then s.pc + 2 else s.pc) := by
  cases c <;> rfl

/-- What an operation returns has no part in what it stores. -/
theorem State.answer_writeBytes (s : State) (r : Result) (as : List Addr) (bs : List Byte) :
    (s.answer r).writeBytes as bs = (s.writeBytes as bs).answer r := by
  induction as generalizing s bs with
  | nil => rfl
  | cons a as ih =>
    cases bs with
    | nil => rfl
    | cons b bs =>
      have h : (s.answer r).writeByte a b = (s.writeByte a b).answer r := by
        have hw : (s.answer r).writable a = s.writable a := rfl
        unfold State.writeByte
        rw [hw]
        split <;> rfl
      rw [State.writeBytes, h, ih]; rfl

/-- What an operation returns has no part in what it loads. -/
theorem State.answer_setRegs (s : State) (r : Result) (rs : List Reg) (bs : List Byte) :
    (s.answer r).setRegs rs bs = (s.setRegs rs bs).answer r := by
  induction rs generalizing s bs with
  | nil => rfl
  | cons x rs ih =>
    cases bs with
    | nil => rfl
    | cons b bs => exact ih (s.setReg x b) bs

/-- Everything CXNN does: Vx and the count of draws (43_alu.md rule R231). -/
theorem execRnd_eq (x : Reg) (nn : Byte) (s : State) : execRnd x nn s =
    .next { s with v := (s.setReg x (Config.randomByte s.draws &&& nn)).v, draws := s.draws + 1 } := rfl

/-- Everything FX1E does: I and the status (44_index_memory.md rule R261). -/
theorem execAddI_eq (x : Reg) (s : State) : execAddI x s =
    .next { s with
      i := BitVec.ofNat 16 ((s.i.toNat + (s.reg x).toNat) % 4096)
      result := if 0x1000 ≤ s.i.toNat + (s.reg x).toNat
        then .status (.outOfBoundsAccess s.instrAddr (encode (.addI x)) (s.i.toNat + (s.reg x).toNat))
        else s.result } := by
  simp only [execAddI]
  split <;> rfl

/-- Everything FX33 does: memory and the status (44_index_memory.md rule R263). -/
theorem execLdB_eq (x : Reg) (s : State) : execLdB x s =
    .next { s with
      mem := (s.writeBytes (s.span 3) (decimalDigits (s.reg x))).mem
      result := (s.flagClamp (encode (.ldB x)) 3).result } := by
  rw [execLdB, State.flagClamp_eq, State.answer_writeBytes]
  obtain ⟨m, hm⟩ := s.writeBytes_eq (s.span 3) (decimalDigits (s.reg x))
  rw [hm]; rfl

/-- Everything FX55 does: memory and the status (44_index_memory.md rule R264). -/
theorem execStoreRegs_eq (x : Reg) (s : State) : execStoreRegs x s =
    .next { s with
      mem := (s.writeBytes (s.span (x.val + 1)) ((regsUpTo x).map s.reg)).mem
      result := (s.flagClamp (encode (.storeRegs x)) (x.val + 1)).result } := by
  rw [execStoreRegs, State.flagClamp_eq, State.answer_writeBytes]
  obtain ⟨m, hm⟩ := s.writeBytes_eq (s.span (x.val + 1)) ((regsUpTo x).map s.reg)
  rw [hm]; rfl

/-- Everything FX65 does: the registers and the status (44_index_memory.md rule R265). -/
theorem execLoadRegs_eq (x : Reg) (s : State) : execLoadRegs x s =
    .next { s with
      v := (s.setRegs (regsUpTo x) ((s.span (x.val + 1)).map s.readByte)).v
      result := (s.flagClamp (encode (.loadRegs x)) (x.val + 1)).result } := by
  rw [execLoadRegs, State.flagClamp_eq, State.answer_setRegs]
  obtain ⟨v, hv⟩ := s.setRegs_eq (regsUpTo x) ((s.span (x.val + 1)).map s.readByte)
  rw [hv]; rfl

/-- Everything DXYN does: V, the framebuffer and the status (41_display.md rule R173). -/
theorem execDrw_eq (x y : Reg) (n : BitVec 4) (s : State) : execDrw x y n s =
    .next { s with
      v := (s.setFlag (drawSprite s.fb (s.reg x) (s.reg y) (drawnRows s n)).2).v
      fb := (drawSprite s.fb (s.reg x) (s.reg y) (drawnRows s n)).1
      result := (s.flagClamp (encode (.drw x y n)) n.toNat).result } := by
  rw [execDrw, State.flagClamp_eq]; rfl

/-- Everything 00EE does: it returns, or with an empty stack it halts (42_flow.md rule R192). -/
theorem execRet_cases (s : State) :
    (∃ h : 0 < s.sp.val, execRet s =
      .next { s with pc := s.stack[s.sp.val - 1]'(by omega), sp := ⟨s.sp.val - 1, by omega⟩ }) ∨
    (s.sp.val = 0 ∧ execRet s = .next (s.raise (.stackUnderflow s.instrAddr (encode .ret)))) := by
  rcases s.pop_cases with ⟨h, e⟩ | ⟨h, e⟩ <;> rw [execRet, e]
  · exact .inl ⟨h, rfl⟩
  · exact .inr ⟨h, rfl⟩

/-- Everything 2NNN does: it calls, or with a full stack it halts (42_flow.md rule R194). -/
theorem execCall_cases (nnn : BitVec 12) (s : State) :
    (∃ h : s.sp.val < 16, execCall nnn s =
      .next { s with pc := zext16 nnn, stack := s.stack.set s.sp.val s.pc, sp := ⟨s.sp.val + 1, by omega⟩ }) ∨
    (s.sp.val = 16 ∧ execCall nnn s = .next (s.raise (.stackOverflow s.instrAddr (encode (.call nnn))))) := by
  rcases s.push_cases s.pc with ⟨h, e⟩ | ⟨h, e⟩ <;> rw [execCall, e]
  · exact .inl ⟨h, rfl⟩
  · exact .inr ⟨h, rfl⟩

/-- A word placed for the next step is what that step runs: `withFetchWord` makes a state whose next step is that of the
instruction the word decodes to. -/
theorem step_withFetchWord (s : State) (nbits w : Nat) (i : Instr) (hd : decode (tableWord nbits w) = .ok i) :
    step (s.withFetchWord nbits w) = exec i (s.withFetchWord nbits w).dropCall.advance := by
  have hpc : s.readyToFetch.pc.toNat + 1 < 4096 := by
    simp only [State.readyToFetch]
    split
    · assumption
    · decide
  have hplace : s.withFetchWord nbits w =
      (s.readyToFetch.pokeByte ⟨s.readyToFetch.pc.toNat, Nat.lt_of_succ_lt hpc⟩ (wordHigh (tableWord nbits w))).pokeByte
        ⟨s.readyToFetch.pc.toNat + 1, hpc⟩ (wordLow (tableWord nbits w)) := by
    simp only [State.withFetchWord, State.placeWord, dif_pos hpc]
  have hcall : (s.withFetchWord nbits w).nextCall = .cycle := by rw [hplace]; rfl
  have hhalt : (s.withFetchWord nbits w).dropCall.halt = none := by rw [hplace]; rfl
  have hwait : (s.withFetchWord nbits w).dropCall.wait = none := by rw [hplace]; rfl
  have hpc2 : (s.withFetchWord nbits w).dropCall.pc = s.readyToFetch.pc := by rw [hplace]; rfl
  rw [step_of_nextCall hcall, perform, cycle_of_idle hhalt hwait,
    fetchExecute_of_decode (i := i) (by rw [hpc2]; exact hpc)]
  simp only [State.dropCall_readByte, hplace, State.dropCall_pc, State.pokeByte_pc, State.readByte_pokeByte, Fin.mk.injEq,
    if_true]
  rw [if_neg (by omega), wordOfBytes_high_low]
  exact hd

end Sys2Proof.Machine
end

