-- ==== Sys2Proof/Machine/Disassemble.lean ====
section
/-! DEFINITION. The assembler's text of a word (30_encoding.md rules R113, R120, R121; decision D20). It has no part in
what the machine does. -/

namespace Sys2Proof

/-- One hexadecimal digit. -/
def hexDigit (d : Nat) : String :=
  ["0", "1", "2", "3", "4", "5", "6", "7", "8", "9", "A", "B", "C", "D", "E", "F"].getD (d % 16) ""

/-- `digits` hexadecimal digits of a number. -/
def hexText : Nat → Nat → String
  | 0, _ => ""
  | digits + 1, v => hexText digits (v / 16) ++ hexDigit v

/-- `V0` to `VF` (rule R120). -/
def regText (r : Reg) : String := "V" ++ hexDigit r.val

/-- `nn` and `nnn` are written in hexadecimal with the prefix 0x (rule R120). -/
def byteText (nn : Byte) : String := "0x" ++ hexText 2 nn.toNat

/-- `nnn` (rule R120). -/
def addrText (nnn : BitVec 12) : String := "0x" ++ hexText 3 nnn.toNat

/-- `n` is written in decimal, 0 to 15 (rule R120). -/
def countText (n : BitVec 4) : String :=
  if n.toNat < 10 then hexDigit n.toNat else "1" ++ hexDigit (n.toNat - 10)

/-- A mnemonic with one operand. -/
def text1 (mnemonic a : String) : String := mnemonic ++ " " ++ a

/-- A mnemonic with two operands. -/
def text2 (mnemonic a b : String) : String := mnemonic ++ " " ++ a ++ ", " ++ b

/-- The line of an instruction, in the form of rule R113's `syntax` column. -/
def instrText : Instr → String
  | .cls => "CLS"
  | .ret => "RET"
  | .jp nnn => text1 "JP" (addrText nnn)
  | .call nnn => text1 "CALL" (addrText nnn)
  | .seImm x nn => text2 "SE" (regText x) (byteText nn)
  | .sneImm x nn => text2 "SNE" (regText x) (byteText nn)
  | .seReg x y => text2 "SE" (regText x) (regText y)
  | .ldImm x nn => text2 "LD" (regText x) (byteText nn)
  | .addImm x nn => text2 "ADD" (regText x) (byteText nn)
  | .ldReg x y => text2 "LD" (regText x) (regText y)
  | .orReg x y => text2 "OR" (regText x) (regText y)
  | .andReg x y => text2 "AND" (regText x) (regText y)
  | .xorReg x y => text2 "XOR" (regText x) (regText y)
  | .addReg x y => text2 "ADD" (regText x) (regText y)
  | .subReg x y => text2 "SUB" (regText x) (regText y)
  | .shr x y => text2 "SHR" (regText x) (regText y)
  | .subnReg x y => text2 "SUBN" (regText x) (regText y)
  | .shl x y => text2 "SHL" (regText x) (regText y)
  | .sneReg x y => text2 "SNE" (regText x) (regText y)
  | .ldI nnn => text2 "LD" "I" (addrText nnn)
  | .jpV0 nnn => text2 "JP" "V0" (addrText nnn)
  | .rnd x nn => text2 "RND" (regText x) (byteText nn)
  | .drw x y n => text2 "DRW" (regText x) (regText y) ++ ", " ++ countText n
  | .skp x => text1 "SKP" (regText x)
  | .sknp x => text1 "SKNP" (regText x)
  | .ldVxDT x => text2 "LD" (regText x) "DT"
  | .ldVxK x => text2 "LD" (regText x) "K"
  | .ldDTVx x => text2 "LD" "DT" (regText x)
  | .ldSTVx x => text2 "LD" "ST" (regText x)
  | .addI x => text2 "ADD" "I" (regText x)
  | .ldF x => text2 "LD" "F" (regText x)
  | .ldB x => text2 "LD" "B" (regText x)
  | .storeRegs x => text2 "LD" "[I]" (regText x)
  | .loadRegs x => text2 "LD" (regText x) "[I]"

/-- The line of a word: an unmapped one is written as data (rule R121). -/
def disassemble (op : Word) : String :=
  match decode op with
  | .ok i => instrText i
  | .error _ => ".word 0x" ++ hexText 4 op.toNat

end Sys2Proof
end

