-- ==== Sys2Proof/Tests/Slice0.lean ====
section
/-! SUPPORT. Tests of one step each, their expected results taken from spec/95_test_vectors.md (cited as V<n>) or worked
out by hand from the rule cited; and, for each statement of Obligations.lean that has hypotheses, a witness that meets
them together (`witness_…`). -/

namespace Sys2Proof.Tests

open Sys2Proof Sys2Proof.Machine

/-! ## Helpers: small states over reset -/

/-- Reset with the font region protected or open (00_scope.md rule R16). -/
def resetWith (fontWritable : Bool) : State :=
  { State.reset with params := { font := defaultFont, fontWritable := fontWritable } }

/-- PC at `pc` and the word `op` there. -/
def placed (pc op : Word) (s : State) : State := (s.setPc pc).placeWord op

/-- Two bytes put at an address and the next. -/
def bytesAt (a : Addr) (hi lo : Byte) (s : State) : State := (s.pokeByte a hi).pokeByte (a + 1) lo

/-- The host calls these operations, in this order. -/
def calls (l : List HostCall) (s : State) : State := { s with schedule := l }

/-- The state of a `next`. -/
def stateOf : Host.Outcome State Fault Refusal → Option State
  | .next t => some t
  | .fault _ => none
  | .refused _ => none

/-- One step. -/
def ran (s : State) : Option State := stateOf (step s)

/-- One cycle that executes the word at 0x200. -/
def ran200 (op : Word) (s : State) : Option State := ran (placed 0x200 op s)

/-! ## Well-formedness: the words the encoding admits (30_encoding.md rules R113, R118)

Every value of `Instr` is well formed (assumption log 17), so what a check refuses here is a word: one ill-formed word
for each class that rule R118 lists, the words of V1 to V8 among them. -/

theorem test_wf_refuses_class_0 : wordMapped 0x0123 = false ∧ wordMapped 0x0000 = false ∧ wordMapped 0x01E0 = false := by
  decide
theorem test_wf_refuses_class_5 : wordMapped 0x5011 = false := by decide
theorem test_wf_refuses_class_8 : wordMapped 0x8008 = false ∧ wordMapped 0x800D = false ∧ wordMapped 0x800F = false := by
  decide
theorem test_wf_refuses_class_9 : wordMapped 0x901F = false := by decide
theorem test_wf_refuses_class_E : wordMapped 0xE000 = false ∧ wordMapped 0xE09F = false := by decide
theorem test_wf_refuses_class_F : wordMapped 0xF0FF = false ∧ wordMapped 0xF066 = false := by decide
theorem test_wf_accepts : wordMapped 0x00E0 = true ∧ wordMapped 0x8FFE = true ∧ wordMapped 0xFF65 = true := by decide
theorem test_decode_refuses_by_name :
    decode 0x01E0 = .error (.unmapped 0x01E0) ∧ decode 0x5011 = .error (.unmapped 0x5011) ∧
    decode 0x800D = .error (.unmapped 0x800D) ∧ decode 0xE09F = .error (.unmapped 0xE09F) ∧
    decode 0xF066 = .error (.unmapped 0xF066) := by decide

/-! ## Decoding: for every constructor a word written out from the encoding of its rule, its digits class, x, y, n -/

theorem test_decode_system_and_flow :
    decode 0x00E0 = .ok .cls ∧ decode 0x00EE = .ok .ret ∧ decode 0x1ABC = .ok (.jp 0xABC) ∧
    decode 0x2DEF = .ok (.call 0xDEF) ∧ decode 0xB123 = .ok (.jpV0 0x123) := by decide
theorem test_decode_skips :
    decode 0x3A7F = .ok (.seImm 0xA 0x7F) ∧ decode 0x4B80 = .ok (.sneImm 0xB 0x80) ∧
    decode 0x5120 = .ok (.seReg 1 2) ∧ decode 0x9210 = .ok (.sneReg 2 1) := by decide
theorem test_decode_immediates :
    decode 0x6AFF = .ok (.ldImm 0xA 0xFF) ∧ decode 0x7003 = .ok (.addImm 0 3) ∧ decode 0xC30F = .ok (.rnd 3 0x0F) := by
  decide
theorem test_decode_class_8 :
    decode 0x8120 = .ok (.ldReg 1 2) ∧ decode 0x8121 = .ok (.orReg 1 2) ∧ decode 0x8122 = .ok (.andReg 1 2) ∧
    decode 0x8123 = .ok (.xorReg 1 2) ∧ decode 0x8124 = .ok (.addReg 1 2) ∧ decode 0x8125 = .ok (.subReg 1 2) ∧
    decode 0x8126 = .ok (.shr 1 2) ∧ decode 0x8127 = .ok (.subnReg 1 2) ∧ decode 0x812E = .ok (.shl 1 2) := by decide
theorem test_decode_index_and_draw :
    decode 0xA300 = .ok (.ldI 0x300) ∧ decode 0xD125 = .ok (.drw 1 2 5) ∧ decode 0xF21E = .ok (.addI 2) ∧
    decode 0xF529 = .ok (.ldF 5) ∧ decode 0xF733 = .ok (.ldB 7) ∧ decode 0xF355 = .ok (.storeRegs 3) ∧
    decode 0xFF65 = .ok (.loadRegs 15) := by decide
theorem test_decode_keys_and_timers :
    decode 0xE49E = .ok (.skp 4) ∧ decode 0xE4A1 = .ok (.sknp 4) ∧ decode 0xF207 = .ok (.ldVxDT 2) ∧
    decode 0xF10A = .ok (.ldVxK 1) ∧ decode 0xF015 = .ok (.ldDTVx 0) ∧ decode 0xF318 = .ok (.ldSTVx 3) := by decide

/-- The bytes lie high byte first (20_memory.md rule R81), and the rest of a byte list is handed on. -/
theorem test_decodeBytes_big_endian :
    decodeBytes [0x12, 0x34, 0x56] = .ok (.jp 0x234, [0x56]) ∧ encodeBytes (.jp 0x234) = [0x12, 0x34] := by decide

/-- The opcode table numbers the bits of the one 16-bit word from its least significant bit. -/
theorem test_decodeTableWord : decodeTableWord 16 0xD125 = some (.drw 1 2 5) ∧ decodeTableWord 16 0x5011 = none := by
  decide

/-- `withFetchWord` places the word where the next step fetches it. -/
theorem test_withFetchWord :
    (ran (State.reset.withFetchWord 16 0x6AFF)).map (fun t => (t.reg 10, t.pc, t.result)) =
      some (0xFF, 0x202, .status .ok) := by decide

/-- 30_encoding.md rules R113, R120, R121. -/
theorem test_disassemble :
    disassemble 0xDF1B = "DRW VF, V1, 11" ∧ disassemble 0xB2A0 = "JP V0, 0x2A0" ∧ disassemble 0xF355 = "LD [I], V3" ∧
    disassemble 0x901F = ".word 0x901F" := by decide

/-! ## The cycle -/

/-- V1. -/
theorem test_unmapped : (ran200 0x0123 State.reset).map (fun t => (t.pc, t.halt, t.result)) =
    some (0x202, none, .status (.unknownOpcode 0x200 0x0123)) := by decide
/-- V9. -/
theorem test_fetch_out_of_range : (ran (State.reset.setPc 0xFFF)).map (fun t => (t.pc, t.halt, t.result)) =
    some (0xFFF, some (.pcOutOfRange 0xFFF), .status (.pcOutOfRange 0xFFF)) := by decide
/-- V10. -/
theorem test_fetch_last_word : (ran (placed 0xFFE 0x6007 State.reset)).map (fun t => (t.reg 0, t.pc, t.result)) =
    some (0x07, 0x1000, .status .ok) := by decide
/-- V12. -/
theorem test_halted : (ran ((State.reset.setPc 0x1000).raise (.pcOutOfRange 0x1000))).map (fun t => (t.pc, t.result)) =
    some (0x1000, .status (.halted (.pcOutOfRange 0x1000))) := by decide
/-- V13. -/
theorem test_fetch_odd : (ran (placed 0x201 0x6A33 State.reset)).map (fun t => (t.reg 10, t.pc)) = some (0x33, 0x203) := by
  decide

/-! ## Display -/

/-- V20. -/
theorem test_cls : (ran200 0x00E0 (State.reset.setFb ((Grid.clear.put 5 5 true).put 63 31 true))).map
    (fun t => (t.cell 5 5, t.cell 63 31)) = some (false, false) := by decide
/-- V25: a collision at the first column, and bit 6 in the next; V27: with x = 15 the old VF is the column. -/
theorem test_drw_collision :
    (ran200 0xD011 (((State.reset.setFb (Grid.clear.put 0 0 true)).setI 0x300).pokeByte 0x300 0xC0)).map
      (fun t => (t.cell 0 0, t.cell 1 0, t.reg 15)) = some (false, true, 1) ∧
    (ran200 0xDF11 (((State.reset.setReg 15 10).setI 0x300).pokeByte 0x300 0x80)).map
      (fun t => (t.cell 10 0, t.cell 0 0, t.reg 15)) = some (true, false, 0) := by decide
/-- V28: two rows of five, the rest beyond memory; drawing wraps from row 31 to row 0 in V23, which shares the state. -/
theorem test_drw_clamped_and_wraps :
    (ran200 0xD015 ((bytesAt 0xFFE 0x80 0x80 (State.reset.setReg 1 31)).setI 0xFFE)).map
      (fun t => (t.cell 0 31, t.cell 0 0, t.cell 0 1, t.reg 15, t.result)) =
        some (true, true, false, 0, .status (.outOfBoundsAccess 0x200 0xD015 0x1000)) := by decide
/-! ## Control flow -/

/-- V40. -/
theorem test_jp : (ran200 0x1ABC State.reset).map (fun t => t.pc) = some 0xABC := by decide
/-- V44: the last free entry. -/
theorem test_call_last_entry : (ran (placed 0x300 0x2400 { State.reset with sp := 15 })).map
    (fun t => (t.entry 15, t.sp, t.pc, t.halt)) = some (0x302, 16, 0x400, none) := by decide
/-- V45. -/
theorem test_call_overflow : (ran (placed 0x300 0x2400 { State.reset with sp := 16 })).map
    (fun t => (t.pc, t.sp, t.halt, t.result)) =
      some (0x302, 16, some (.stackOverflow 0x300 0x2400), .status (.stackOverflow 0x300 0x2400)) := by decide
/-- V46: the popped entry keeps its value. -/
theorem test_ret : (ran (placed 0x600 0x00EE
    { State.reset with sp := 2, stack := (State.reset.stack.set 0 0x202).set 1 0x404 })).map
      (fun t => (t.pc, t.sp, t.entry 1)) = some (0x404, 1, 0x404) := by decide
/-- V47. -/
theorem test_ret_underflow : (ran200 0x00EE State.reset).map (fun t => (t.pc, t.halt, t.result)) =
    some (0x202, some (.stackUnderflow 0x200 0x00EE), .status (.stackUnderflow 0x200 0x00EE)) := by decide
/-- V49, V50. -/
theorem test_se_imm : (ran200 0x3500 State.reset).map (fun t => t.pc) = some 0x204 ∧
    (ran200 0x3500 (State.reset.setReg 5 1)).map (fun t => t.pc) = some 0x202 := by decide
/-- V51, V52. -/
theorem test_sne_imm : (ran200 0x4500 State.reset).map (fun t => t.pc) = some 0x202 ∧
    (ran200 0x4500 (State.reset.setReg 5 1)).map (fun t => t.pc) = some 0x204 := by decide
/-- V53, V54. -/
theorem test_se_reg : (ran200 0x5330 (State.reset.setReg 3 0x42)).map (fun t => t.pc) = some 0x204 ∧
    (ran200 0x5010 ((State.reset.setReg 0 1).setReg 1 2)).map (fun t => t.pc) = some 0x202 := by decide
/-- V55, V56. -/
theorem test_sne_reg : (ran200 0x9330 (State.reset.setReg 3 0x42)).map (fun t => t.pc) = some 0x202 ∧
    (ran200 0x9010 ((State.reset.setReg 0 1).setReg 1 2)).map (fun t => t.pc) = some 0x204 := by decide
/-- V57: a skip is not reduced. -/
theorem test_skip_past_memory : (ran (placed 0xFFE 0x3000 State.reset)).map (fun t => (t.pc, t.result)) =
    some (0x1002, .status .ok) := by decide
/-- V59, V60: V0 and not Vx. -/
theorem test_jpV0 : (ran200 0xBFFF (State.reset.setReg 0 0xFF)).map (fun t => t.pc) = some 0x10FE ∧
    (ran200 0xB123 ((State.reset.setReg 0 1).setReg 1 0x50)).map (fun t => t.pc) = some 0x124 := by decide

/-! ## Arithmetic and logic -/

/-- V70. -/
theorem test_ld_imm : (ran200 0x6AFF State.reset).map (fun t => t.reg 10) = some 0xFF := by decide
/-- V72, V73: no carry; VF as an ordinary destination. -/
theorem test_add_imm : (ran200 0x7003 (State.reset.setReg 0 0xFE)).map (fun t => (t.reg 0, t.reg 15)) = some (1, 0) ∧
    (ran200 0x7F01 (State.reset.setReg 15 0xFF)).map (fun t => t.reg 15) = some 0 := by decide
/-- V74. -/
theorem test_ld_reg : (ran200 0x8010 ((State.reset.setReg 0 0x12).setReg 1 0x34)).map (fun t => (t.reg 0, t.reg 1)) =
    some (0x34, 0x34) := by decide
/-- V75. -/
theorem test_or : (ran200 0x8011 (((State.reset.setReg 0 0x0F).setReg 1 0xF0).setReg 15 0x77)).map
    (fun t => (t.reg 0, t.reg 15)) = some (0xFF, 0x77) := by decide
/-- V76. -/
theorem test_and : (ran200 0x8012 (((State.reset.setReg 0 0x3C).setReg 1 0x0F).setReg 15 0x77)).map
    (fun t => (t.reg 0, t.reg 15)) = some (0x0C, 0x77) := by decide
/-- V77 and the example of 43_alu.md rule R225. -/
theorem test_xor : (ran200 0x8003 (State.reset.setReg 0 0x3C)).map (fun t => t.reg 0) = some 0 ∧
    (ran200 0x8013 ((State.reset.setReg 0 0x3C).setReg 1 0x0F)).map (fun t => t.reg 0) = some 0x33 := by decide
/-- V79: a sum of 255 is no carry. -/
theorem test_add_no_carry : (ran200 0x8014 ((State.reset.setReg 0 0x7F).setReg 1 0x80)).map
    (fun t => (t.reg 0, t.reg 15)) = some (0xFF, 0) := by decide
/-- V80: with x = 15 the carry stays. -/
theorem test_add_into_vf : (ran200 0x8F14 ((State.reset.setReg 15 0xFF).setReg 1 1)).map (fun t => t.reg 15) = some 1 := by
  decide
/-- V83. -/
theorem test_sub_borrow : (ran200 0x8015 ((State.reset.setReg 0 5).setReg 1 7)).map (fun t => (t.reg 0, t.reg 15)) =
    some (0xFE, 0) := by decide
/-- V84: equal operands do not borrow. -/
theorem test_sub_equal : (ran200 0x8015 ((State.reset.setReg 0 7).setReg 1 7)).map (fun t => (t.reg 0, t.reg 15)) =
    some (0, 1) := by decide
/-- V86. -/
theorem test_subn : (ran200 0x8017 ((State.reset.setReg 0 5).setReg 1 7)).map (fun t => (t.reg 0, t.reg 15)) =
    some (2, 1) := by decide
/-- V87. -/
theorem test_subn_borrow : (ran200 0x8017 ((State.reset.setReg 0 7).setReg 1 5)).map (fun t => (t.reg 0, t.reg 15)) =
    some (0xFE, 0) := by decide
/-- V88: Vy is ignored. -/
theorem test_shr : (ran200 0x8236 ((State.reset.setReg 2 5).setReg 3 0xFF)).map
    (fun t => (t.reg 2, t.reg 3, t.reg 15)) = some (2, 0xFF, 1) := by decide
/-- V92: Vy is ignored. -/
theorem test_shl : (ran200 0x812E ((State.reset.setReg 1 0x40).setReg 2 0xFF)).map (fun t => (t.reg 1, t.reg 15)) =
    some (0x80, 0) := by decide
/-- V93. -/
theorem test_shl_into_vf : (ran200 0x8F0E (State.reset.setReg 15 0x80)).map (fun t => t.reg 15) = some 1 := by decide
/-- V94: the byte is what the source gives, under the mask; one byte is taken. -/
theorem test_rnd (s : State) : (stateOf (exec (.rnd 3 0x0F) s)).map (fun t => (t.reg 3, t.draws)) =
    some (Config.randomByte s.draws &&& 0x0F, s.draws + 1) := by
  have h : (s.drawRandom.2.setReg 3 (s.drawRandom.1 &&& 0x0F)).reg 3 = s.drawRandom.1 &&& 0x0F := by
    rw [State.reg_setReg, if_pos rfl]
  exact congrArg (fun b => some (b, s.draws + 1)) h

/-! ## Index register and memory -/

/-- V100. -/
theorem test_ld_i : (ran200 0xAFFF State.reset).map (fun t => t.i) = some 0xFFF := by decide
/-- V103: the sum wraps at 0x1000 and is flagged, VF is untouched. -/
theorem test_add_i_wraps : (ran200 0xF01E ((State.reset.setReg 0 1).setI 0xFFF)).map (fun t => (t.i, t.reg 15, t.result)) =
    some (0, 0, .status (.outOfBoundsAccess 0x200 0xF01E 0x1000)) := by decide
/-- V104: 0xFFF is in range. -/
theorem test_add_i_top : (ran200 0xF01E ((State.reset.setReg 0 0xFE).setI 0xF01)).map (fun t => (t.i, t.result)) =
    some (0xFFF, .status .ok) := by decide
/-- V105, V106. -/
theorem test_ld_f : (ran200 0xF529 (State.reset.setReg 5 0x0F)).map (fun t => t.i) = some 0x4B ∧
    (ran200 0xF529 (State.reset.setReg 5 0xF3)).map (fun t => t.i) = some 0x0F := by decide
/-- V110: the ones digit falls beyond memory. -/
theorem test_ld_b_clamped : (ran200 0xF033 ((State.reset.setReg 0 123).setI 0xFFE)).map
    (fun t => (t.readByte 0xFFE, t.readByte 0xFFF, t.result)) =
      some (1, 2, .status (.outOfBoundsAccess 0x200 0xF033 0x1000)) := by decide
/-- V111. -/
theorem test_ld_b : (ran200 0xF033 ((State.reset.setReg 0 123).setI 0xFFD)).map
    (fun t => (t.readByte 0xFFD, t.readByte 0xFFE, t.readByte 0xFFF, t.result)) = some (1, 2, 3, .status .ok) := by decide
/-- V114. -/
theorem test_store_regs_clamped : (ran200 0xF155 (((State.reset.setReg 0 0x10).setReg 1 0x20).setI 0xFFF)).map
    (fun t => (t.readByte 0xFFF, t.i, t.result)) =
      some (0x10, 0xFFF, .status (.outOfBoundsAccess 0x200 0xF155 0x1000)) := by decide
/-- V115, both values of the parameter. -/
theorem test_store_regs_font :
    (ran200 0xF155 ((((resetWith true).setReg 0 0xAA).setReg 1 0xBB).setI 0x10)).map
      (fun t => (t.readByte 0x10, t.readByte 0x11, t.result)) = some (0xAA, 0xBB, .status .ok) ∧
    (ran200 0xF155 ((((resetWith false).setReg 0 0xAA).setReg 1 0xBB).setI 0x10)).map
      (fun t => (t.mem == (placed 0x200 0xF155 (resetWith false)).mem, t.result)) = some (true, .status .ok) := by decide
/-- V116: V3 is not loaded by F265. -/
theorem test_load_regs :
    (ran200 0xF265 ((((bytesAt 0x400 0x11 0x22 State.reset).pokeByte 0x402 0x33).setReg 3 0x99).setI 0x400)).map
      (fun t => (t.reg 0, t.reg 1, t.reg 2, t.reg 3, t.i)) = some (0x11, 0x22, 0x33, 0x99, 0x400) := by decide
/-- V117. -/
theorem test_load_regs_clamped :
    (ran200 0xF165 (((State.reset.pokeByte 0xFFF 0x44).setReg 1 0x99).setI 0xFFF)).map
      (fun t => (t.reg 0, t.reg 1, t.result)) =
        some (0x44, 0x99, .status (.outOfBoundsAccess 0x200 0xF165 0x1000)) := by decide

/-! ## Keys and timers -/

/-- V130, V132. -/
theorem test_skp : (ran (placed 0x210 0xE49E ((State.reset.putKey 7 true).setReg 4 7))).map (fun t => t.pc) = some 0x214 ∧
    (ran (placed 0x210 0xE49E ((State.reset.putKey 3 true).setReg 4 0x13))).map (fun t => t.pc) = some 0x214 := by decide
/-- V133, V134. -/
theorem test_sknp : (ran (placed 0x210 0xE4A1 (State.reset.setReg 4 7))).map (fun t => t.pc) = some 0x214 ∧
    (ran (placed 0x210 0xE4A1 ((State.reset.putKey 7 true).setReg 4 7))).map (fun t => t.pc) = some 0x212 := by decide
/-- V135. -/
theorem test_ld_vx_dt : (ran200 0xF207 (State.reset.setDt 0x1B)).map (fun t => (t.reg 2, t.dt)) = some (0x1B, 0x1B) := by
  decide
/-- V136. -/
theorem test_ld_dt_vx : (ran200 0xF015 (State.reset.setReg 0 0x20)).map (fun t => (t.dt, t.st)) = some (0x20, 0) := by
  decide
/-- V137. -/
theorem test_ld_st_vx : (ran200 0xF318 (State.reset.setReg 3 2)).map (fun t => (t.st, t.dt)) = some (2, 0) := by decide
/-- V141. -/
theorem test_ld_vx_k : (ran (placed 0x204 0xF10A State.reset)).map (fun t => (t.wait, t.latch, t.pc, t.result)) =
    some (some 1, none, 0x206, .status .ok) := by decide
/-- V142: a key held before does not end the wait. -/
theorem test_waiting : (ran ((State.reset.putKey 2 true).setWait (some 1))).map (fun t => (t.wait, t.pc, t.result)) =
    some (some 1, 0x200, .status .waiting) := by decide
/-- V145. -/
theorem test_wait_ends : (ran (((State.reset.setPc 0x206).setWait (some 1)).setLatch (some 9))).map
    (fun t => (t.reg 1, t.wait, t.latch, t.pc, t.result)) = some (9, none, none, 0x206, .status .ok) := by decide

/-! ## The host's operations -/

/-- V138, V139. -/
theorem test_tick : (ran (calls [.tick] ((State.reset.setDt 2).setSt 1))).map (fun t => (t.dt, t.st)) = some (1, 0) ∧
    (ran (calls [.tick] State.reset)).map (fun t => (t.dt, t.st)) = some (0, 0) := by decide
/-- V143, V144: a release does not latch; the first press is taken. -/
theorem test_set_key :
    (ran (calls [.setKey 5 false] (State.reset.setWait (some 1)))).map (fun t => (t.key 5, t.latch)) =
      some (false, none) ∧
    (ran (calls [.setKey 4 true] ((State.reset.setWait (some 1)).setLatch (some 9)))).map (fun t => (t.key 4, t.latch)) =
      some (true, some 9) := by decide
/-- V146. -/
theorem test_set_key_idle : (ran (calls [.setKey 6 true] State.reset)).map (fun t => (t.key 6, t.latch)) =
    some (true, none) := by decide
/-- 60_exceptions.md rule R353. -/
theorem test_set_key_refused : step (calls [.setKey 16 true] State.reset) = .refused (.keyIndexOutOfRange 16) := rfl
/-- V164. -/
theorem test_load_program :
    (ran (calls [.loadProgram [0x12, 0x00]] (State.reset.raise (.stackOverflow 0x200 0x2200)))).map
      (fun t => (t.halt, t.readByte 0x200, t.readByte 0x201, t.readByte 0x4F, t.result)) =
        some (none, 0x12, 0x00, 0x80, .loaded) := by decide
/-- V161: one byte too many, and HALT stays. -/
theorem test_rom_too_large (b : Byte) :
    (ran (calls [.loadProgram (List.replicate 3585 b)] (State.reset.raise (.stackOverflow 0x200 0x2200)))).map
      (fun t => (t.halt, t.result)) = some (some (.stackOverflow 0x200 0x2200), .romTooLarge) := by
  have h : maxRom < (List.replicate 3585 b).length := by rw [List.length_replicate]; decide
  have e : ∀ s : State, hostLoadProgram (List.replicate 3585 b) s = s.answer .romTooLarge := fun s => if_pos h
  exact congrArg (fun t : State => some (t.halt, t.result)) (e _)
/-- V160: reset clears what ran before. -/
theorem test_reset : (ran (calls [.reset] ((((State.reset.setReg 3 9).setI 5).pokeByte 0x300 7).setWait (some 2)))).map
    (fun t => (t.reg 3, t.i, t.readByte 0x300, t.wait, t.pc)) = some (0, 0, 0, none, 0x200) := by decide
/-- 10_state.md rules R54, R55, R56. -/
theorem test_observations :
    (ran (calls [.isSoundActive] (State.reset.setSt 2))).map (fun t => t.result) = some (.sound true) ∧
    (ran (calls [.getFramebuffer] State.reset)).map (fun t => t.result) = some (.framebuffer Grid.clear) ∧
    (ran (calls [.snapshot] (State.reset.setI 7))).map (fun t => t.result) =
      some (.snapshot (State.reset.setI 7).toBlock State.reset.params) := ⟨rfl, rfl, rfl⟩

/-! ## Witnesses: what the hypotheses of each statement ask for, met together -/

theorem witness_DecodedWordEncodesToItself : decode 0x8126 = .ok (.shr 1 2) := by decide

theorem witness_DispatchAgreesWithTheOpcodeMap :
    decode 0x8126 = .ok (.shr 1 2) ∧ wordMapped 0x8008 = false ∧ wordMapped 0x8126 = true ∧
    (Instr.shr 1 2).row ∈ opcodeMap ∧ (Instr.shr 1 2).row.selects 0x8126 = true := by decide

/-- At the last address a fetch can have. -/
theorem witness_StepRunsTheDecodedInstruction :
    ∃ (s : State) (h : s.pc.toNat + 1 < 4096), s.pc = 0xFFE ∧ s.nextCall = .cycle ∧ s.halt = none ∧ s.wait = none ∧
      decode (BitVec.ofNat 16 ((s.readByte ⟨s.pc.toNat, Nat.lt_of_succ_lt h⟩).toNat * 256 +
        (s.readByte ⟨s.pc.toNat + 1, h⟩).toNat)) = .ok (.ldImm 0 7) :=
  ⟨placed 0xFFE 0x6007 State.reset, by decide, by decide, rfl, rfl, rfl, by decide⟩

theorem witness_UnmappedWordOnlyAdvancesPc :
    ∃ (s : State) (op : Word) (h : s.pc.toNat + 1 < 4096), s.nextCall = .cycle ∧ s.halt = none ∧ s.wait = none ∧
      op.toNat = (s.readByte ⟨s.pc.toNat, Nat.lt_of_succ_lt h⟩).toNat * 256 + (s.readByte ⟨s.pc.toNat + 1, h⟩).toNat ∧
      wordMapped op = false :=
  ⟨placed 0xFFE 0x901F State.reset, 0x901F, by decide, rfl, rfl, rfl, by decide, by decide⟩

theorem witness_HaltedCycleChangesNothing :
    ∃ (s : State) (c : Cause), s.nextCall = .cycle ∧ s.halt = some c :=
  ⟨State.reset.raise (.stackUnderflow 0x200 0x00EE), _, rfl, rfl⟩

theorem witness_WaitingCycleChangesNothing :
    ∃ (s : State) (x : Reg), s.nextCall = .cycle ∧ s.halt = none ∧ s.wait = some x ∧ s.latch = none :=
  ⟨State.reset.setWait (some 15), _, rfl, rfl, rfl, rfl⟩

theorem witness_LatchedKeyEndsTheWait :
    ∃ (s : State) (x : Reg) (k : Key), s.nextCall = .cycle ∧ s.halt = none ∧ s.wait = some x ∧ s.latch = some k :=
  ⟨(State.reset.setWait (some 15)).setLatch (some 15), _, _, rfl, rfl, rfl, rfl⟩

/-- At the first PC that is out of range. -/
theorem witness_FetchBeyondMemoryHalts :
    ∃ s : State, s.nextCall = .cycle ∧ s.halt = none ∧ s.wait = none ∧ 0x0FFE < s.pc.toNat ∧ s.pc = 0xFFF :=
  ⟨State.reset.setPc 0xFFF, rfl, rfl, rfl, by decide, rfl⟩

/-- Both clauses, at the indexes on either side of the limit. -/
theorem witness_OnlyAKeyIndexOutOfRangeIsRefused :
    (∃ s : State, s.nextCall = .setKey 16 true ∧ 15 < 16) ∧
    (∃ s : State, s.nextCall = .setKey 15 true ∧ ∀ k p, s.nextCall = .setKey k p → k ≤ 15) :=
  ⟨⟨calls [.setKey 16 true] State.reset, rfl, by decide⟩,
    ⟨calls [.setKey 15 true] State.reset, rfl, fun k p h => by
      have e : HostCall.setKey 15 true = HostCall.setKey k p := h
      injection e with e1 e2
      omega⟩⟩

/-- I at the top of memory, where one row of two is drawn. -/
theorem witness_DrawXorsTheSprite :
    ∃ (s : State) (n : BitVec 4), s.i.toNat ≤ 0x0FFF ∧ s.i.toNat + 0 < 4096 ∧ 0 < n.toNat ∧ 0x1000 < s.i.toNat + n.toNat :=
  ⟨State.reset.setI 0xFFF, 2, by decide, by decide, by decide, by decide⟩

/-- On a clear screen with a sprite of one lit bit: both draws complete, and the first leaves VF 0. -/
theorem witness_DrawingTwiceRestoresTheScreen :
    ∃ (s t u : State) (x y : Reg) (n : BitVec 4), x ≠ 15 ∧ y ≠ 15 ∧
      exec (.drw x y n) s = .next t ∧ exec (.drw x y n) t = .next u ∧ t.reg 15 = 0 ∧ u.reg 15 = 1 :=
  ⟨(State.reset.setI 0x300).pokeByte 0x300 0x80, _, _, 0, 1, 1, by decide, by decide, rfl, rfl, by decide, by decide⟩

/-- With one entry and with a full stack. -/
theorem witness_ReturnPopsThePc :
    (∃ s : State, 0 < s.sp.val ∧ s.sp.val = 1) ∧ (∃ s : State, 0 < s.sp.val ∧ s.sp.val = 16) :=
  ⟨⟨{ State.reset with sp := 1 }, by decide, by decide⟩, ⟨{ State.reset with sp := 16 }, by decide, by decide⟩⟩

theorem witness_StackLimitsHalt :
    (∃ s : State, s.sp.val = 0) ∧
    (∃ (s : State) (nnn : BitVec 12) (op : Word), s.sp.val = 16 ∧ op.toNat = 0x2000 + nnn.toNat) :=
  ⟨⟨State.reset, by decide⟩, ⟨{ State.reset with sp := 16 }, 0xFFF, 0x2FFF, by decide, by decide⟩⟩

/-- The hypothesis of `CallPushesThePc` and of `ReturnAfterCallRestoresPc`, with an empty stack and with one free entry. -/
theorem witness_CallPushesThePc :
    (∃ s : State, s.sp.val < 16 ∧ s.sp.val = 0) ∧ (∃ s : State, s.sp.val < 16 ∧ s.sp.val = 15) :=
  ⟨⟨State.reset, by decide, by decide⟩, ⟨{ State.reset with sp := 15 }, by decide, by decide⟩⟩

theorem witness_ReturnAfterCallRestoresPc : ∃ s : State, s.sp.val < 16 := ⟨{ State.reset with sp := 15 }, by decide⟩

theorem witness_OnlyRndDependsOnTheRandomSource :
    ∃ (i : Instr) (s t : State), (∀ x nn, i ≠ .rnd x nn) ∧ exec i s = .next t :=
  ⟨.jp 0xABC, State.reset, _, nofun, rfl⟩

/-- The hypothesis of the three transfers, at the top of memory. -/
theorem witness_StoreDecimalDigits : ∃ s : State, s.i.toNat ≤ 0x0FFF ∧ s.i = 0xFFF ∧ 0x1000 < s.i.toNat + 3 :=
  ⟨State.reset.setI 0xFFF, by decide, rfl, by decide⟩

/-- Each clause: a register stored at the last byte, an address outside the span, and one inside the protected font. -/
theorem witness_StoreRegistersAtIndex :
    (∃ (s : State) (x r : Reg) (a : Addr), s.i.toNat ≤ 0x0FFF ∧ r.val ≤ x.val ∧ a.val = s.i.toNat + r.val ∧
      (s.params.fontWritable = true ∨ 0x04F < a.val) ∧ a.val = 0xFFF) ∧
    (∃ (s : State) (x : Reg) (a : Addr), s.i.toNat ≤ 0x0FFF ∧ s.i.toNat + x.val < a.val) ∧
    (∃ (s : State) (a : Addr), s.i.toNat ≤ 0x0FFF ∧ s.params.fontWritable = false ∧ a.val ≤ 0x04F ∧ s.i.toNat ≤ a.val) :=
  ⟨⟨State.reset.setI 0xFFE, 15, 1, 0xFFF, by decide, by decide, by decide, .inr (by decide), by decide⟩,
    ⟨State.reset.setI 0x300, 15, 0x310, by decide, by decide⟩,
    ⟨(resetWith false).setI 0x4F, 0x4F, by decide, rfl, by decide, by decide⟩⟩

/-- Each clause: a register loaded from the last byte, one above x, and one whose address is beyond memory. -/
theorem witness_LoadRegistersFromIndex :
    (∃ (s : State) (x r : Reg) (a : Addr), s.i.toNat ≤ 0x0FFF ∧ r.val ≤ x.val ∧ a.val = s.i.toNat + r.val ∧ a.val = 0xFFF) ∧
    (∃ (s : State) (x r : Reg), s.i.toNat ≤ 0x0FFF ∧ x.val < r.val) ∧
    (∃ (s : State) (x r : Reg), s.i.toNat ≤ 0x0FFF ∧ r.val ≤ x.val ∧ 0x0FFF < s.i.toNat + r.val) :=
  ⟨⟨State.reset.setI 0xFF0, 15, 15, 0xFFF, by decide, by decide, by decide, by decide⟩,
    ⟨State.reset.setI 0x300, 14, 15, by decide, by decide⟩,
    ⟨State.reset.setI 0xFFF, 1, 1, by decide, by decide, by decide⟩⟩

/-- The last register that still has an address in memory. -/
theorem witness_LoadBackWhatWasStored :
    ∃ (s t u : State) (x r : Reg) (clobbered : Vector Byte 16),
      exec (.storeRegs x) s = .next t ∧ exec (.loadRegs x) { t with v := clobbered } = .next u ∧ r.val ≤ x.val ∧
      s.i.toNat + r.val ≤ 0x0FFF ∧ (s.params.fontWritable = true ∨ 0x04F < s.i.toNat + r.val) ∧ s.reg r = 7 :=
  ⟨(State.reset.setI 0xFFE).setReg 1 7, _, _, 1, 1, Vector.replicate 16 0, rfl, rfl, by decide, by decide,
    .inr (by decide), by decide⟩

theorem witness_KeySkips : ∃ (s : State) (x : Reg) (k : Key), k.val = (s.reg x).toNat % 16 ∧ k = 15 :=
  ⟨State.reset.setReg 4 0xFF, 4, 15, by decide, rfl⟩

/-- Two waiting cycles, then the press and the cycle that ends the wait. -/
theorem witness_KeyWaitEndsWithThePressedKey :
    ∃ (s : State) (x : Reg) (k : Key) (n m : Nat), s.halt = none ∧ s.wait = some x ∧ s.latch = none ∧
      s.schedule = List.replicate n .cycle ++ [.setKey k.val true, .cycle] ∧ 0 < m ∧ m ≤ n :=
  ⟨calls [.cycle, .cycle, .setKey 15 true, .cycle] (State.reset.setWait (some 15)), 15, 15, 2, 2, rfl, rfl, rfl, rfl,
    by decide, by decide⟩

theorem witness_TickLowersTheTimers : ∃ s : State, s.nextCall = .tick ∧ 0 < s.dt.toNat ∧ s.st = 0 :=
  ⟨calls [.tick] (State.reset.setDt 1), rfl, by decide, rfl⟩

theorem witness_TicksCountDownToZero : ∃ (s : State) (n : Nat), s.schedule = List.replicate n .tick ∧ s.dt.toNat < n :=
  ⟨calls [.tick, .tick] (State.reset.setDt 1), 2, rfl, by decide⟩

/-- A press that latches, at the last key. -/
theorem witness_SetKeyWritesAndLatches :
    ∃ (s : State) (k : Key) (pressed : Bool), s.nextCall = .setKey k.val pressed ∧ pressed = true ∧
      (∃ x, s.wait = some x) ∧ s.latch = none :=
  ⟨calls [.setKey 15 true] (State.reset.setWait (some 3)), 15, true, rfl, rfl, ⟨3, rfl⟩, rfl⟩

theorem witness_ResetLeavesTheResetValues : ∃ s : State, s.nextCall = .reset ∧ s.reg 3 = 9 :=
  ⟨calls [.reset] (State.reset.setReg 3 9), rfl, by decide⟩

/-- The smallest and the largest ROM. -/
theorem witness_LoadProgramPlacesTheBytes :
    (∃ s : State, s.nextCall = .loadProgram [] ∧ ([] : List Byte).length ≤ 3584) ∧
    (∃ (s : State) (bytes : List Byte), s.nextCall = .loadProgram bytes ∧ bytes.length ≤ 3584 ∧ bytes.length = 3584) :=
  ⟨⟨calls [.loadProgram []] State.reset, rfl, by decide⟩,
    ⟨calls [.loadProgram (List.replicate 3584 1)] State.reset, _, rfl, by rw [List.length_replicate],
      List.length_replicate⟩⟩

/-- The smallest ROM that is too large. -/
theorem witness_TooLargeRomChangesNothing :
    ∃ (s : State) (bytes : List Byte), s.nextCall = .loadProgram bytes ∧ 3584 < bytes.length :=
  ⟨calls [.loadProgram (List.replicate 3585 1)] State.reset, _, rfl, by rw [List.length_replicate]; decide⟩

theorem witness_ReadingScreenAndSoundChangesNothing :
    (∃ s : State, s.nextCall = .getFramebuffer) ∧ (∃ s : State, s.nextCall = .isSoundActive) :=
  ⟨⟨calls [.getFramebuffer] State.reset, rfl⟩, ⟨calls [.isSoundActive] State.reset, rfl⟩⟩

theorem witness_SnapshotCopiesTheBlock : ∃ s : State, s.nextCall = .snapshot := ⟨calls [.snapshot] State.reset, rfl⟩

/-- The hypotheses of the frames: an instruction that completes and a register it does not write. -/
theorem witness_OtherGeneralRegistersAreKept :
    ∃ (i : Instr) (s t : State) (r : Reg), exec i s = .next t ∧ writesReg i r = false ∧ r = 14 :=
  ⟨.addReg 1 2, State.reset, _, 14, rfl, by decide, rfl⟩

/-- One instruction for each clause. -/
theorem witness_OnlyTheFlagInstructionsWriteVfAsAFlag :
    (∃ (i : Instr) (s t : State), exec i s = .next t ∧ writesFlag i = true) ∧
    (∃ (i : Instr) (s t : State), exec i s = .next t ∧ writesFlag i = false ∧ writesReg i 15 = false) :=
  ⟨⟨.shl 1 2, State.reset, _, rfl, by decide⟩, ⟨.loadRegs 14, State.reset, _, rfl, by decide, by decide⟩⟩

/-- One address outside the span, and one in the span and the protected font. -/
theorem witness_OtherMemoryIsKept :
    (∃ (i : Instr) (s t : State) (a : Addr), exec i s = .next t ∧ a ∉ s.span (storeCount i) ∧ storeCount i = 3) ∧
    (∃ (i : Instr) (s t : State) (a : Addr), exec i s = .next t ∧ a ∈ s.span (storeCount i) ∧
      s.params.fontWritable = false ∧ a.val ≤ 0x04F) :=
  ⟨⟨.ldB 1, State.reset.setI 0x300, _, 0x303, rfl, by decide, rfl⟩,
    ⟨.ldB 1, (resetWith false).setI 0x4F, _, 0x4F, rfl, by decide, rfl, by decide⟩⟩

/-- `.cls` meets the hypotheses of every clause. -/
theorem witness_IndexTimersAndStackAreKept :
    ∃ (i : Instr) (s t : State), exec i s = .next t ∧ (∀ nnn, i ≠ .ldI nnn) ∧ (∀ x, i ≠ .addI x) ∧ (∀ x, i ≠ .ldF x) ∧
      (∀ x, i ≠ .ldDTVx x) ∧ (∀ x, i ≠ .ldSTVx x) ∧ (∀ nnn, i ≠ .call nnn) ∧ i ≠ .ret :=
  ⟨.cls, State.reset, _, rfl, nofun, nofun, nofun, nofun, nofun, nofun, nofun⟩

/-- `.jp` meets the hypotheses of every clause. -/
theorem witness_ScreenAndControlStateAreKept :
    ∃ (i : Instr) (s t : State), exec i s = .next t ∧ i ≠ .cls ∧ (∀ x y n, i ≠ .drw x y n) ∧ (∀ x, i ≠ .ldVxK x) ∧
      (∀ nnn, i ≠ .call nnn) ∧ i ≠ .ret :=
  ⟨.jp 0, State.reset, _, rfl, nofun, nofun, nofun, nofun, nofun⟩

/-- One instruction for each clause: both answers of a skip's condition, a call with the last free entry and a return to
the first, a call and a return that halt. -/
theorem witness_OneControlFlowEffect :
    (∃ t, exec .cls State.reset = .next t ∧ pcEffect .cls = .goOn) ∧
    (∃ t, exec (.seImm 0 0) State.reset = .next t ∧ pcEffect (.seImm 0 0) = .skip ∧ State.reset.reg 0 = 0) ∧
    (∃ t, exec (.sneImm 0 1) State.reset = .next t ∧ State.reset.reg 0 ≠ 1) ∧
    (∃ t, exec (.seReg 0 15) State.reset = .next t ∧ State.reset.reg 0 = State.reset.reg 15) ∧
    (∃ t, exec (.sneReg 0 15) State.reset = .next t ∧ State.reset.reg 0 = State.reset.reg 15) ∧
    (∃ (s t : State) (k : Key), exec (.skp 4) s = .next t ∧ k.val = (s.reg 4).toNat % 16 ∧ s.key k = true) ∧
    (∃ (s t : State) (k : Key), exec (.sknp 4) s = .next t ∧ k.val = (s.reg 4).toNat % 16 ∧ s.key k = true) ∧
    (∃ t, exec (.jp 0xFFF) State.reset = .next t) ∧
    (∃ t, exec (.jpV0 0xFFF) (State.reset.setReg 0 0xFF) = .next t) ∧
    (∃ s t : State, exec (.call 0xFFF) s = .next t ∧ s.sp.val < 16 ∧ s.sp.val = 15) ∧
    (∃ (s t : State) (k : Fin 16), exec .ret s = .next t ∧ s.sp.val = k.val + 1 ∧ k = 0) ∧
    (∃ s t : State, exec (.call 0) s = .next t ∧ s.sp.val = 16 ∧ t.halt ≠ s.halt) ∧
    (∃ s t : State, exec .ret s = .next t ∧ s.sp.val = 0 ∧ t.halt ≠ s.halt) :=
  ⟨⟨_, rfl, rfl⟩, ⟨_, rfl, rfl, by decide⟩, ⟨_, rfl, by decide⟩, ⟨_, rfl, by decide⟩, ⟨_, rfl, by decide⟩,
    ⟨(State.reset.setReg 4 0xFF).putKey 15 true, _, 15, rfl, by decide, by decide⟩,
    ⟨(State.reset.setReg 4 0xFF).putKey 15 true, _, 15, rfl, by decide, by decide⟩,
    ⟨_, rfl⟩, ⟨_, rfl⟩,
    ⟨{ State.reset with sp := 15 }, _, rfl, by decide, by decide⟩,
    ⟨{ State.reset with sp := 1 }, _, 0, rfl, by decide, rfl⟩,
    ⟨{ State.reset with sp := 16 }, _, rfl, by decide, by decide⟩,
    ⟨State.reset, _, rfl, by decide, by decide⟩⟩

/-- The last byte of the font region. -/
theorem witness_ResetMeetsTheInvariant : ∃ a : Addr, a.val < 80 ∧ a.val = 79 := ⟨79, by decide, by decide⟩

/-- A state that meets the invariant with a stack entry in use, I at its highest value and a press latched in a wait. -/
def waiting : State :=
  { State.reset with sp := 1, stack := State.reset.stack.set 0 0x1000, i := 0xFFF, wait := some 15, latch := some 15 }

theorem witness_EveryStepKeepsTheInvariant : ∃ s t : State, s.Inv ∧ step s = .next t :=
  ⟨waiting, _, ⟨rfl, by decide, by decide, by decide, by decide, by decide, nofun⟩, rfl⟩

theorem witness_ProtectedFontIsNeverMutated :
    ∃ s t : State, step s = .next t ∧ s.FontIntact ∧ s.params.fontWritable = false :=
  ⟨resetWith false, _, rfl, fun _ _ _ => rfl, rfl⟩

theorem witness_HaltPersistsUntilResetOrLoad :
    ∃ (s t : State) (c : Cause), s.halt = some c ∧ step s = .next t ∧ s.nextCall ≠ .reset ∧
      ∀ bytes, s.nextCall ≠ .loadProgram bytes :=
  ⟨calls [.tick] (State.reset.raise (.stackUnderflow 0x200 0x00EE)), _, _, rfl, rfl, nofun, nofun⟩

/-- `getFramebuffer()` meets the hypotheses of every clause. -/
theorem witness_WhatEachHostOperationMayChange :
    ∃ s t : State, step s = .next t ∧ s.nextCall ≠ .reset ∧ (∀ bytes, s.nextCall ≠ .loadProgram bytes) ∧
      s.nextCall ≠ .cycle ∧ s.nextCall ≠ .tick ∧ ∀ k p, s.nextCall ≠ .setKey k p :=
  ⟨calls [.getFramebuffer] State.reset, _, rfl, nofun, nofun, nofun, nofun, nofun⟩

/-- One instruction for each of the three statuses. -/
theorem witness_StatusesOfEachInstruction :
    (∃ t, exec .ret State.reset = .next t ∧ t.result ≠ State.reset.result) ∧
    (∃ t, exec (.call 0) { State.reset with sp := 16 } = .next t ∧ t.result ≠ State.reset.result) ∧
    (∃ t, exec (.ldB 0) (State.reset.setI 0xFFE) = .next t ∧ t.result ≠ State.reset.result) :=
  ⟨⟨_, rfl, by decide⟩, ⟨_, rfl, by decide⟩, ⟨_, rfl, by decide⟩⟩

end Sys2Proof.Tests
end

section
/-! What a step of each reading host operation does, and that it changes nothing (10_state.md rules R54, R55). -/

namespace Sys2Proof.Machine

variable {s : State}

/-- Rule R54. -/
theorem step_of_getFramebuffer (h : s.nextCall = .getFramebuffer) :
    step s = .next (s.dropCall.answer (.framebuffer s.fb)) := by
  rw [step_of_nextCall h, perform, hostGetFramebuffer, State.dropCall_fb]

/-- Rule R55. -/
theorem step_of_isSoundActive (h : s.nextCall = .isSoundActive) :
    step s = .next (s.dropCall.answer (.sound (decide (0 < s.st.toNat)))) := by
  rw [step_of_nextCall h, perform, hostIsSoundActive, State.dropCall_st]

/-- Settles O46: each of the two operations only answers, and an answer on the state without the call differs from `s`
in the schedule and the returned value alone. -/
theorem readingScreenAndSoundChangesNothing : Obligations.ReadingScreenAndSoundChangesNothing :=
  fun _ => ⟨step_of_getFramebuffer, step_of_isSoundActive⟩

end Sys2Proof.Machine
end

section
/-! A word that decodes is the word of the instruction it decodes to, and selects that instruction's row of the opcode
map, so a word no row selects does not decode (30_encoding.md rules R113, R114, R118). -/

namespace Sys2Proof

variable {op : Word} {i : Instr}

/-! ## A word from the fields a branch of the dispatch tests -/

theorem wordA_of_class {c : BitVec 4} (hc : fieldClass op = c) : wordA c (fieldNNN op) = op := by
  rw [← hc, wordA_fields]

theorem wordRI_of_class {c : BitVec 4} (hc : fieldClass op = c) : wordRI c (fieldX op) (fieldNN op) = op := by
  rw [← hc, wordRI_fields]

theorem wordRI_of_class_low {c : BitVec 4} {b : Byte} (hc : fieldClass op = c) (hb : fieldNN op = b) :
    wordRI c (fieldX op) b = op := by
  rw [← hb, wordRI_of_class hc]

theorem wordRRN_of_class {c : BitVec 4} (hc : fieldClass op = c) :
    wordRRN c (fieldX op) (fieldY op) (fieldN op) = op := by
  rw [← hc, wordRRN_fields]

theorem wordRRN_of_class_low {c n : BitVec 4} (hc : fieldClass op = c) (hn : fieldN op = n) :
    wordRRN c (fieldX op) (fieldY op) n = op := by
  rw [← hn, wordRRN_of_class hc]

/-! ## Decoding loses nothing of the word -/

theorem encode_of_decodeClass0 (h : decodeClass0 op = .ok i) : encode i = op := by
  simp only [decodeClass0] at h
  split_ifs at h with hcls hret
  · cases h; exact hcls.symm
  · cases h; exact hret.symm

/-- Every branch of class 0x8 answers an instruction of format RR with the low nibble it tests for. -/
theorem encode_of_decodeClass8 (hc : fieldClass op = 0x8) (h : decodeClass8 op = .ok i) : encode i = op := by
  simp only [decodeClass8] at h
  split_ifs at h <;> cases h <;> exact wordRRN_of_class_low hc ‹_›

/-- Both branches of class 0xE answer an instruction of format R with the low byte they test for. -/
theorem encode_of_decodeClassE (hc : fieldClass op = 0xE) (h : decodeClassE op = .ok i) : encode i = op := by
  simp only [decodeClassE] at h
  split_ifs at h <;> cases h <;> exact wordRI_of_class_low hc ‹_›

/-- Every branch of class 0xF answers an instruction of format R with the low byte it tests for. -/
theorem encode_of_decodeClassF (hc : fieldClass op = 0xF) (h : decodeClassF op = .ok i) : encode i = op := by
  simp only [decodeClassF] at h
  split_ifs at h <;> cases h <;> exact wordRI_of_class_low hc ‹_›

/-- A word that decodes is the word of the instruction it decodes to: one case per class, in the dispatch's order. -/
theorem encode_of_decode (h : decode op = .ok i) : encode i = op := by
  unfold decode at h
  obtain ⟨c0, h⟩ | ⟨c0, h⟩ := ite_eq_iff.mp h
  · exact encode_of_decodeClass0 h
  obtain ⟨c1, h⟩ | ⟨c1, h⟩ := ite_eq_iff.mp h
  · cases h; exact wordA_of_class c1
  obtain ⟨c2, h⟩ | ⟨c2, h⟩ := ite_eq_iff.mp h
  · cases h; exact wordA_of_class c2
  obtain ⟨c3, h⟩ | ⟨c3, h⟩ := ite_eq_iff.mp h
  · cases h; exact wordRI_of_class c3
  obtain ⟨c4, h⟩ | ⟨c4, h⟩ := ite_eq_iff.mp h
  · cases h; exact wordRI_of_class c4
  obtain ⟨c5, h⟩ | ⟨c5, h⟩ := ite_eq_iff.mp h
  · obtain ⟨n5, h⟩ | ⟨-, h⟩ := ite_eq_iff.mp h <;> cases h
    exact wordRRN_of_class_low c5 n5
  obtain ⟨c6, h⟩ | ⟨c6, h⟩ := ite_eq_iff.mp h
  · cases h; exact wordRI_of_class c6
  obtain ⟨c7, h⟩ | ⟨c7, h⟩ := ite_eq_iff.mp h
  · cases h; exact wordRI_of_class c7
  obtain ⟨c8, h⟩ | ⟨c8, h⟩ := ite_eq_iff.mp h
  · exact encode_of_decodeClass8 c8 h
  obtain ⟨c9, h⟩ | ⟨c9, h⟩ := ite_eq_iff.mp h
  · obtain ⟨n9, h⟩ | ⟨-, h⟩ := ite_eq_iff.mp h <;> cases h
    exact wordRRN_of_class_low c9 n9
  obtain ⟨cA, h⟩ | ⟨cA, h⟩ := ite_eq_iff.mp h
  · cases h; exact wordA_of_class cA
  obtain ⟨cB, h⟩ | ⟨cB, h⟩ := ite_eq_iff.mp h
  · cases h; exact wordA_of_class cB
  obtain ⟨cC, h⟩ | ⟨cC, h⟩ := ite_eq_iff.mp h
  · cases h; exact wordRI_of_class cC
  obtain ⟨cD, h⟩ | ⟨cD, h⟩ := ite_eq_iff.mp h
  · cases h; exact wordRRN_of_class cD
  obtain ⟨cE, h⟩ | ⟨cE, h⟩ := ite_eq_iff.mp h
  · exact encode_of_decodeClassE cE h
  have cF : fieldClass op = 0xF := by bv_omega
  exact encode_of_decodeClassF cF h

/-! ## A decoded word is on the opcode map -/

theorem Instr.row_mem_opcodeMap (i : Instr) : i.row ∈ opcodeMap := by
  cases i <;> simp [Instr.row, opcodeMap]

/-- An instruction's word selects the instruction's row: the cases of `Laws.EncodedWord` together. -/
theorem Instr.row_selects_encode : ∀ i : Instr, i.row.selects (encode i) = true
  | .cls => Laws.EncodedWord.cls
  | .ret => Laws.EncodedWord.ret
  | .jp nnn => Laws.EncodedWord.jp nnn
  | .call nnn => Laws.EncodedWord.call nnn
  | .seImm x nn => Laws.EncodedWord.seImm x nn
  | .sneImm x nn => Laws.EncodedWord.sneImm x nn
  | .seReg x y => Laws.EncodedWord.seReg x y
  | .ldImm x nn => Laws.EncodedWord.ldImm x nn
  | .addImm x nn => Laws.EncodedWord.addImm x nn
  | .ldReg x y => Laws.EncodedWord.ldReg x y
  | .orReg x y => Laws.EncodedWord.orReg x y
  | .andReg x y => Laws.EncodedWord.andReg x y
  | .xorReg x y => Laws.EncodedWord.xorReg x y
  | .addReg x y => Laws.EncodedWord.addReg x y
  | .subReg x y => Laws.EncodedWord.subReg x y
  | .shr x y => Laws.EncodedWord.shr x y
  | .subnReg x y => Laws.EncodedWord.subnReg x y
  | .shl x y => Laws.EncodedWord.shl x y
  | .sneReg x y => Laws.EncodedWord.sneReg x y
  | .ldI nnn => Laws.EncodedWord.ldI nnn
  | .jpV0 nnn => Laws.EncodedWord.jpV0 nnn
  | .rnd x nn => Laws.EncodedWord.rnd x nn
  | .drw x y n => Laws.EncodedWord.drw x y n
  | .skp x => Laws.EncodedWord.skp x
  | .sknp x => Laws.EncodedWord.sknp x
  | .ldVxDT x => Laws.EncodedWord.ldVxDT x
  | .ldVxK x => Laws.EncodedWord.ldVxK x
  | .ldDTVx x => Laws.EncodedWord.ldDTVx x
  | .ldSTVx x => Laws.EncodedWord.ldSTVx x
  | .addI x => Laws.EncodedWord.addI x
  | .ldF x => Laws.EncodedWord.ldF x
  | .ldB x => Laws.EncodedWord.ldB x
  | .storeRegs x => Laws.EncodedWord.storeRegs x
  | .loadRegs x => Laws.EncodedWord.loadRegs x

/-- A decoded word selects the row of the instruction it decodes to. -/
theorem row_selects_of_decode (h : decode op = .ok i) : i.row.selects op = true := by
  have hsel := i.row_selects_encode
  rwa [encode_of_decode h] at hsel

theorem wordMapped_of_decode (h : decode op = .ok i) : wordMapped op = true :=
  List.any_eq_true.mpr ⟨i.row, i.row_mem_opcodeMap, row_selects_of_decode h⟩

/-- A word no row selects does not decode. -/
theorem decode_eq_error_of_unmapped (h : wordMapped op = false) : ∃ e, decode op = .error e := by
  cases hd : decode op with
  | error e => exact ⟨e, rfl⟩
  | ok i => simp [wordMapped_of_decode hd] at h

/-! ## The word a fetch reads, as a number (20_memory.md rule R81) -/

theorem ofNat_eq_wordOfBytes (hi lo : Byte) : BitVec.ofNat 16 (hi.toNat * 256 + lo.toNat) = wordOfBytes hi lo := by
  rw [← toNat_wordOfBytes, BitVec.ofNat_toNat, BitVec.setWidth_eq]

theorem eq_wordOfBytes {hi lo : Byte} (h : op.toNat = hi.toNat * 256 + lo.toNat) : op = wordOfBytes hi lo :=
  BitVec.eq_of_toNat_eq (h.trans (toNat_wordOfBytes hi lo).symm)

end Sys2Proof
end

section
/-! What a step does when the next host operation is a cycle (40_cycle.md). -/

namespace Sys2Proof.Machine

variable {s : State}

theorem step_of_cycle (h : s.nextCall = .cycle) : step s = cycle s.dropCall := step_of_nextCall h

/-- A scheduled cycle that is neither halted nor waiting fetches. -/
theorem step_of_idle (hc : s.nextCall = .cycle) (hh : s.halt = none) (hw : s.wait = none) :
    step s = fetchExecute s.dropCall := by
  rw [step_of_cycle hc]
  exact cycle_of_idle hh hw

/-- Everything an unmapped word does: the status names the word and the address it was fetched from (rule R147). -/
theorem execUnmapped_advance (op : Word) (s : State) : execUnmapped op s.advance =
    .next { s with pc := s.pc + 2, result := .status (.unknownOpcode s.pc op) } := by
  rw [execUnmapped, State.advance_instrAddr]; rfl

/-- Settles O7: a word no row selects does not decode, and then the cycle only records the status. -/
theorem unmappedWordOnlyAdvancesPc : Obligations.UnmappedWordOnlyAdvancesPc := by
  intro s op hpc hc hh hw hop hu
  obtain ⟨e, hd⟩ := decode_eq_error_of_unmapped hu
  have hword := eq_wordOfBytes hop
  rw [hword] at hd
  calc step s = fetchExecute s.dropCall := step_of_idle hc hh hw
    _ = execUnmapped op s.dropCall.advance := hword ▸ fetchExecute_of_unmapped (s := s.dropCall) hpc hd
    _ = _ := execUnmapped_advance op s.dropCall

/-- Settles O6: the step fetches, and the word fetched is the one the statement decodes. -/
theorem stepRunsTheDecodedInstruction : Obligations.StepRunsTheDecodedInstruction := by
  intro s i hpc hc hh hw hd
  rw [ofNat_eq_wordOfBytes] at hd
  calc step s = fetchExecute s.dropCall := step_of_idle hc hh hw
    _ = exec i s.dropCall.advance := fetchExecute_of_decode (s := s.dropCall) hpc hd

/-- Settles O9: the waiting branch of the cycle only answers. -/
theorem waitingCycleChangesNothing : Obligations.WaitingCycleChangesNothing := by
  intro s x hc hh hw hl
  calc step s = cycle s.dropCall := step_of_cycle hc
    _ = .next (s.dropCall.answer (.status .waiting)) := cycle_of_waiting (s := s.dropCall) hh hw hl

/-! ## A cycle always returns (rule R152) -/

/-- Every instruction answers a next state; a return and a call do so at the stack's limits too. -/
theorem exec_returns (i : Instr) (s : State) : ∃ t, exec i s = .next t := by
  cases i
  case ret => rcases execRet_cases s with ⟨_, e⟩ | ⟨_, e⟩ <;> exact ⟨_, e⟩
  case call nnn => rcases execCall_cases nnn s with ⟨_, e⟩ | ⟨_, e⟩ <;> exact ⟨_, e⟩
  all_goals exact ⟨_, rfl⟩

theorem fetchExecute_returns (s : State) : ∃ t, fetchExecute s = .next t := by
  obtain ⟨-, e⟩ | ⟨-, op, e⟩ | ⟨-, i, e⟩ := fetchExecute_cases s
  · exact ⟨_, e⟩
  · exact ⟨_, e⟩
  · exact e ▸ exec_returns i s.advance

/-- Settles O12: each of the cycle's four branches returns. -/
theorem cycleAlwaysReturns : Obligations.CycleAlwaysReturns := by
  intro s
  obtain ⟨_, _, e⟩ | ⟨_, _, _, _, e⟩ | ⟨_, _, _, _, _, e⟩ | ⟨_, _, e⟩ := cycle_cases s
  · exact ⟨_, e⟩
  · exact ⟨_, e⟩
  · exact ⟨_, e⟩
  · exact e ▸ fetchExecute_returns s

end Sys2Proof.Machine
end

section
/-! What 00E0 does (41_display.md rule R170): it only clears the framebuffer. -/

namespace Sys2Proof.Machine

/-- Rule R170. -/
theorem exec_cls (s : State) : exec .cls s = .next (s.setFb Grid.clear) := rfl

/-- Writing the framebuffer changes the framebuffer alone. -/
theorem State.setFb_frame (s : State) (g : Grid) : s.setFb g = { s with fb := (s.setFb g).fb } := rfl

theorem State.cell_setFb (s : State) (g : Grid) (c : Fin 64) (r : Fin 32) : (s.setFb g).cell c r = g.cell c r := rfl

/-- Settles O14: 00E0 writes the clear grid, of which every cell is 0, and nothing else. -/
theorem clearScreenClearsEveryCell : Obligations.ClearScreenClearsEveryCell := by
  have hword : (encode .cls).toNat = 0x00E0 := by decide
  refine ⟨hword, fun s => ⟨s.setFb Grid.clear, exec_cls s, s.setFb_frame Grid.clear, fun c r => ?_⟩⟩
  rw [State.cell_setFb, Grid.cell_clear]

end Sys2Proof.Machine
end

section
/-! What 1NNN and the four skips on registers do (42_flow.md rules R193, R195 to R199): each only sets PC. -/

namespace Sys2Proof.Machine

/-- Setting PC changes PC alone. -/
theorem State.setPc_frame (s : State) (target : Word) : s.setPc target = { s with pc := (s.setPc target).pc } := rfl

/-! ## The jump -/

theorem toNat_zext16_address (nnn : BitVec 12) : (zext16 nnn).toNat = nnn.toNat :=
  BitVec.toNat_setWidth_of_le (by decide)

/-- Rule R193. -/
theorem exec_jp (nnn : BitVec 12) (s : State) : exec (.jp nnn) s = .next (s.setPc (zext16 nnn)) := rfl

/-- Settles O21: 1NNN only sets PC, to its address, which sixteen bits hold unchanged. -/
theorem jumpSetsThePc : Obligations.JumpSetsThePc := fun s nnn =>
  ⟨toNat_wordA 0x1 nnn, s.setPc (zext16 nnn), exec_jp nnn s, s.setPc_frame (zext16 nnn), toNat_zext16_address nnn⟩

/-! ## The skips -/

section
variable {w : Nat} (s : State) (a b : BitVec w)

/-- A skip on equality, by the condition itself. -/
theorem State.skipIf_beq : s.skipIf (a == b) = { s with pc := if a = b then s.pc + 2 else s.pc } := by
  rw [State.skipIf_eq, State.setPc]
  simp only [beq_iff_eq]

/-- A skip on inequality, by the condition itself. -/
theorem State.skipIf_bne : s.skipIf (a != b) = { s with pc := if a = b then s.pc else s.pc + 2 } := by
  rw [State.skipIf_eq, State.setPc]
  simp only [bne_iff_ne, ite_not]

end

section
variable (s : State) (x y : Reg) (nn : Byte)

/-- Rule R196. -/
theorem exec_seImm : exec (.seImm x nn) s = .next (s.skipIf (s.reg x == nn)) := rfl

/-- Rule R197. -/
theorem exec_sneImm : exec (.sneImm x nn) s = .next (s.skipIf (s.reg x != nn)) := rfl

/-- Rule R198. -/
theorem exec_seReg : exec (.seReg x y) s = .next (s.skipIf (s.reg x == s.reg y)) := rfl

/-- Rule R199. -/
theorem exec_sneReg : exec (.sneReg x y) s = .next (s.skipIf (s.reg x != s.reg y)) := rfl

end

/-- Settles O23: the words are those of the formats RI and RR, and each skip is one on equality or on inequality. -/
theorem registerSkips : Obligations.RegisterSkips := by
  intro s x y nn
  refine ⟨toNat_wordRI 0x3 x nn, toNat_wordRI 0x4 x nn, toNat_wordRRN 0x5 x y 0x0, toNat_wordRRN 0x9 x y 0x0, ?_⟩
  refine ⟨?seImm, ?sneImm, ?seReg, ?sneReg⟩
  case seImm => rw [exec_seImm, State.skipIf_beq]
  case sneImm => rw [exec_sneImm, State.skipIf_bne]
  case seReg => rw [exec_seReg, State.skipIf_beq]
  case sneReg => rw [exec_sneReg, State.skipIf_bne]

end Sys2Proof.Machine
end

section
/-! What 6XNN, 7XNN and 8XY0 to 8XY3 do (43_alu.md rules R220 to R225): each only writes Vx. -/

namespace Sys2Proof

/-- A word of format RR with its fixed nibbles put together, as the opcode table's `match` column has them. -/
theorem toNat_wordRRN_fixed (c : BitVec 4) (x y : Reg) (n : BitVec 4) :
    (wordRRN c x y n).toNat = (c.toNat * 4096 + n.toNat) + x.val * 256 + y.val * 16 := by
  rw [toNat_wordRRN]
  omega

end Sys2Proof

namespace Sys2Proof.Machine

/-! ## Writing one register -/

section
variable (s : State) (x : Reg) (b : Byte)

/-- Writing a register changes V alone. -/
theorem State.setReg_frame : s.setReg x b = { s with v := (s.setReg x b).v } := rfl

theorem State.reg_setReg_same : (s.setReg x b).reg x = b := by
  rw [State.reg_setReg, if_pos rfl]

theorem State.reg_setReg_of_ne {r : Reg} (h : r ≠ x) : (s.setReg x b).reg r = s.reg r := by
  rw [State.reg_setReg, if_neg h]

end

/-- The sum of the immediate add wraps (rule R221). -/
theorem toNat_addCarry_fst (a b : Byte) : (addCarry a b).1.toNat = (a.toNat + b.toNat) % 256 := by
  rw [addCarry, BitVec.toNat_ofNat, Nat.mod_mod]

/-! ## The six meanings -/

section
variable (s : State) (x y : Reg) (nn : Byte)

/-- Rule R220. -/
theorem exec_ldImm : exec (.ldImm x nn) s = .next (s.setReg x nn) := rfl

/-- Rule R221. -/
theorem exec_addImm : exec (.addImm x nn) s = .next (s.setReg x (addCarry (s.reg x) nn).1) := rfl

/-- Rule R222. -/
theorem exec_ldReg : exec (.ldReg x y) s = .next (s.setReg x (s.reg y)) := rfl

/-- Rule R223. -/
theorem exec_orReg : exec (.orReg x y) s = .next (s.setReg x (s.reg x ||| s.reg y)) := rfl

/-- Rule R224. -/
theorem exec_andReg : exec (.andReg x y) s = .next (s.setReg x (s.reg x &&& s.reg y)) := rfl

/-- Rule R225. -/
theorem exec_xorReg : exec (.xorReg x y) s = .next (s.setReg x (s.reg x ^^^ s.reg y)) := rfl

end

/-- Settles O24: each of the three is one write to Vx, and a sum in eight bits wraps. -/
theorem loadsAndImmediateAdd : Obligations.LoadsAndImmediateAdd := by
  intro s x y nn
  refine ⟨⟨toNat_wordRI 0x6 x nn, _, exec_ldImm s x nn, s.setReg_frame x _, ?ldImm⟩,
    ⟨toNat_wordRI 0x7 x nn, _, exec_addImm s x nn, s.setReg_frame x _, ?addImm⟩,
    ⟨toNat_wordRRN 0x8 x y 0x0, _, exec_ldReg s x y, s.setReg_frame x _, ?ldReg⟩⟩
  case ldImm => exact fun r => s.reg_setReg x r nn
  case addImm =>
    intro r
    rw [State.reg_setReg, apply_ite BitVec.toNat, toNat_addCarry_fst]
  case ldReg => exact fun r => s.reg_setReg x r (s.reg y)

/-- Settles O25: each of the three is one write to Vx, of a byte whose bits are those of the operation. -/
theorem bitwiseOperations : Obligations.BitwiseOperations := by
  intro s x y
  refine ⟨⟨toNat_wordRRN_fixed 0x8 x y 0x1, _, exec_orReg s x y, s.setReg_frame x _,
      fun _ => s.reg_setReg_of_ne x _, ?or⟩,
    ⟨toNat_wordRRN_fixed 0x8 x y 0x2, _, exec_andReg s x y, s.setReg_frame x _,
      fun _ => s.reg_setReg_of_ne x _, ?and⟩,
    ⟨toNat_wordRRN_fixed 0x8 x y 0x3, _, exec_xorReg s x y, s.setReg_frame x _,
      fun _ => s.reg_setReg_of_ne x _, ?xor⟩⟩
  case or => intro b; rw [State.reg_setReg_same, BitVec.getLsbD_or]
  case and => intro b; rw [State.reg_setReg_same, BitVec.getLsbD_and]
  case xor => intro b; rw [State.reg_setReg_same, BitVec.getLsbD_xor]

end Sys2Proof.Machine
end

section
/-! What ANNN does (44_index_memory.md rule R260): it only sets I. -/

namespace Sys2Proof.Machine

/-- Setting I changes I alone. -/
theorem State.setI_frame (s : State) (address : Word) : s.setI address = { s with i := (s.setI address).i } := rfl

/-- Rule R260. -/
theorem exec_ldI (nnn : BitVec 12) (s : State) : exec (.ldI nnn) s = .next (s.setI (zext16 nnn)) := rfl

/-- Settles O30: ANNN only sets I, to its address, which sixteen bits hold unchanged. -/
theorem loadIndexSetsI : Obligations.LoadIndexSetsI := fun s nnn =>
  ⟨toNat_wordA 0xA nnn, s.setI (zext16 nnn), exec_ldI nnn s, s.setI_frame (zext16 nnn), toNat_zext16_address nnn⟩

end Sys2Proof.Machine
end

section
/-! What FX07, FX15 and FX18 do (45_keys_timers.md rules R292, R294, R295): each moves one byte between Vx and a timer. -/

namespace Sys2Proof

/-- A word of format RI whose low byte is fixed, with its fixed digits put together. -/
theorem toNat_wordRI_fixed (c : BitVec 4) (x : Reg) (nn : Byte) :
    (wordRI c x nn).toNat = (c.toNat * 4096 + nn.toNat) + x.val * 256 := by
  rw [toNat_wordRI, Nat.add_right_comm]

end Sys2Proof

namespace Sys2Proof.Machine

section
variable (s : State) (x : Reg)

/-- Rule R292. -/
theorem exec_ldVxDT : exec (.ldVxDT x) s = .next (s.setReg x s.dt) := rfl

/-- Rule R294, with the one field the write changes. -/
theorem exec_ldDTVx : exec (.ldDTVx x) s = .next { s with dt := s.reg x } := rfl

/-- Rule R295, with the one field the write changes. -/
theorem exec_ldSTVx : exec (.ldSTVx x) s = .next { s with st := s.reg x } := rfl

end

/-- Settles O37: FX07 is one write to Vx, of the byte DT holds; FX15 and FX18 are one write to their timer, of the byte
Vx holds. -/
theorem timerMoves : Obligations.TimerMoves := fun s x =>
  ⟨⟨toNat_wordRI_fixed 0xF x 0x07, s.setReg x s.dt, exec_ldVxDT s x, s.setReg_frame x s.dt,
      fun r => s.reg_setReg x r s.dt⟩,
    ⟨toNat_wordRI_fixed 0xF x 0x15, exec_ldDTVx s x⟩,
    ⟨toNat_wordRI_fixed 0xF x 0x18, exec_ldSTVx s x⟩⟩

end Sys2Proof.Machine
end

section
/-! What a step of `tick()` does: each timer counts down, and nothing else changes (60_exceptions.md rule R350). -/

namespace Sys2Proof.Machine

theorem ticked_of_zero {t : Byte} (h : t = 0) : ticked t = 0 := by rw [ticked, if_pos h, h]

theorem ticked_of_ne_zero {t : Byte} (h : t ≠ 0) : ticked t = t - 1 := if_neg h

/-- A nonzero byte is at least one, so lowering it by one does not wrap. -/
theorem toNat_ticked (t : Byte) : (ticked t).toNat = if 0 < t.toNat then t.toNat - 1 else 0 := by
  by_cases h : t = 0
  · rw [ticked_of_zero h, h]; rfl
  · have hpos : 0 < t.toNat := Nat.pos_of_ne_zero (BitVec.toNat_ne.mp h)
    rw [ticked_of_ne_zero h, if_pos hpos]
    exact BitVec.toNat_sub_of_le hpos

/-- Rule R350: the two timers, the schedule and the answer are all that a step of `tick()` writes. -/
theorem step_of_tick {s : State} (h : s.nextCall = .tick) :
    step s = .next { s with
      dt := ticked s.dt, st := ticked s.st, schedule := s.schedule.tail, result := .nothing } :=
  step_of_nextCall h

/-- Settles O40: the step writes `ticked` of each timer, which is the timer less one, or zero. -/
theorem tickLowersTheTimers : Obligations.TickLowersTheTimers := fun s h =>
  ⟨_, step_of_tick h, rfl, toNat_ticked s.dt, toNat_ticked s.st⟩

end Sys2Proof.Machine
end

section
/-! A ROM above the limit is answered `romTooLarge` and changes nothing (70_reset_and_hazards.md rules R383, R385). -/

namespace Sys2Proof.Machine

/-- Rule R14's limit in decimal. -/
theorem maxRom_eq : maxRom = 3584 := rfl

/-- Rule R383: the size is checked before anything is written. -/
theorem hostLoadProgram_of_tooLarge {bytes : List Byte} (h : maxRom < bytes.length) (s : State) :
    hostLoadProgram bytes s = s.answer .romTooLarge := if_pos h

/-- Settles O45: past the limit the call only answers, and an answer on the state without the call differs from `s` in
the schedule and the returned value alone. -/
theorem tooLargeRomChangesNothing : Obligations.TooLargeRomChangesNothing := fun s bytes hcall hlen => by
  have hmax : maxRom < bytes.length := by rwa [maxRom_eq]
  calc step s = .next (hostLoadProgram bytes s.dropCall) := step_of_nextCall hcall
    _ = .next (s.dropCall.answer .romTooLarge) := by rw [hostLoadProgram_of_tooLarge hmax]
    _ = .next { s with schedule := s.schedule.tail, result := .romTooLarge } := rfl

end Sys2Proof.Machine
end

section
/-! Decoding and encoding are inverse, and the dispatch is the opcode map read as masks (30_encoding.md rules R110 to
R114, R118). -/

namespace Sys2Proof

variable {op : Word} {i : Instr}

/-! ## Every instruction is what its word decodes to -/

/-- The fields of a built word are those it was built from, so each test of the dispatch picks the instruction encoded. -/
theorem decode_encode (i : Instr) : decode (encode i) = .ok i := by
  cases i
  case cls => decide
  case ret => decide
  all_goals simp [encode, decode, decodeClass8, decodeClassE, decodeClassF]

theorem decodeBytes_encodeBytes_append (i : Instr) (rest : List Byte) :
    decodeBytes (encodeBytes i ++ rest) = .ok (i, rest) := by
  simp only [encodeBytes, List.cons_append, List.nil_append, decodeBytes, wordOfBytes_high_low, decode_encode]

/-- Settles O1: by the fields of a built word, and by the two bytes of a word, high byte first, being the word. -/
theorem encodedInstructionDecodesToItself : Obligations.EncodedInstructionDecodesToItself :=
  fun i => ⟨decode_encode i, decodeBytes_encodeBytes_append i⟩

/-- Settles O2: each branch of the dispatch answers an instruction built of the word's own fields. -/
theorem decodedWordEncodesToItself : Obligations.DecodedWordEncodesToItself := fun _ _ => encode_of_decode

theorem encode_injective {i j : Instr} (h : encode i = encode j) : i = j := by
  have hd : decode (encode i) = decode (encode j) := by rw [h]
  rw [decode_encode, decode_encode] at hd
  exact Except.ok.inj hd

/-! ## A word that a row selects, rebuilt from its fields -/

theorem wordA_of_selects {v : Word} (c : BitVec 4) (hv : wordA c 0 = v)
    (h : (OpcodeRow.mk v 0xF000).selects op = true) : op = wordA c (fieldNNN op) := by
  have hword := beq_iff_eq.mp h
  rw [word_and_F000, ← hv] at hword
  have hc := congrArg fieldClass hword
  rw [fieldClass_wordA, fieldClass_wordA] at hc
  exact (wordA_of_class hc).symm

theorem fieldClass_of_selects {v : Word} (c : BitVec 4) (hv : wordA c 0 = v)
    (h : (OpcodeRow.mk v 0xF000).selects op = true) : fieldClass op = c := by
  rw [wordA_of_selects c hv h, fieldClass_wordA]

theorem wordRI_of_selects {v : Word} (c : BitVec 4) (hv : wordA c 0 = v)
    (h : (OpcodeRow.mk v 0xF000).selects op = true) : op = wordRI c (fieldX op) (fieldNN op) :=
  (wordRI_of_class (fieldClass_of_selects c hv h)).symm

theorem wordRRN_of_selects {v : Word} (c : BitVec 4) (hv : wordA c 0 = v)
    (h : (OpcodeRow.mk v 0xF000).selects op = true) : op = wordRRN c (fieldX op) (fieldY op) (fieldN op) :=
  (wordRRN_of_class (fieldClass_of_selects c hv h)).symm

theorem wordRR_of_selects {v : Word} (c n : BitVec 4) (hv : wordRRN c 0 0 n = v)
    (h : (OpcodeRow.mk v 0xF00F).selects op = true) : op = wordRRN c (fieldX op) (fieldY op) n := by
  have hword := beq_iff_eq.mp h
  rw [word_and_F00F, ← hv] at hword
  have hc := congrArg fieldClass hword
  have hn := congrArg fieldN hword
  rw [fieldClass_wordRRN, fieldClass_wordRRN] at hc
  rw [fieldN_wordRRN, fieldN_wordRRN] at hn
  exact (wordRRN_of_class_low hc hn).symm

theorem wordR_of_selects {v : Word} (c : BitVec 4) (nn : Byte) (hv : wordRI c 0 nn = v)
    (h : (OpcodeRow.mk v 0xF0FF).selects op = true) : op = wordRI c (fieldX op) nn := by
  have hword := beq_iff_eq.mp h
  rw [word_and_F0FF, ← hv] at hword
  have hc := congrArg fieldClass hword
  have hn := congrArg fieldNN hword
  rw [fieldClass_wordRI, fieldClass_wordRI] at hc
  rw [fieldNN_wordRI, fieldNN_wordRI] at hn
  exact (wordRI_of_class_low hc hn).symm

theorem word_of_selects {v : Word} (h : (OpcodeRow.mk v 0xFFFF).selects op = true) : op = v :=
  (BitVec.and_allOnes (x := op)).symm.trans (beq_iff_eq.mp h)

/-- A word that the row of an instruction selects is the word of an instruction with that row: the fields the row does
not fix are the operands. -/
theorem exists_encode_of_selects : ∀ i : Instr, i.row.selects op = true → ∃ j, op = encode j ∧ j.row = i.row
  | .cls, h => ⟨.cls, word_of_selects h, rfl⟩
  | .ret, h => ⟨.ret, word_of_selects h, rfl⟩
  | .jp _, h => ⟨.jp (fieldNNN op), wordA_of_selects 0x1 (by decide) h, rfl⟩
  | .call _, h => ⟨.call (fieldNNN op), wordA_of_selects 0x2 (by decide) h, rfl⟩
  | .seImm _ _, h => ⟨.seImm (fieldX op) (fieldNN op), wordRI_of_selects 0x3 (by decide) h, rfl⟩
  | .sneImm _ _, h => ⟨.sneImm (fieldX op) (fieldNN op), wordRI_of_selects 0x4 (by decide) h, rfl⟩
  | .seReg _ _, h => ⟨.seReg (fieldX op) (fieldY op), wordRR_of_selects 0x5 0x0 (by decide) h, rfl⟩
  | .ldImm _ _, h => ⟨.ldImm (fieldX op) (fieldNN op), wordRI_of_selects 0x6 (by decide) h, rfl⟩
  | .addImm _ _, h => ⟨.addImm (fieldX op) (fieldNN op), wordRI_of_selects 0x7 (by decide) h, rfl⟩
  | .ldReg _ _, h => ⟨.ldReg (fieldX op) (fieldY op), wordRR_of_selects 0x8 0x0 (by decide) h, rfl⟩
  | .orReg _ _, h => ⟨.orReg (fieldX op) (fieldY op), wordRR_of_selects 0x8 0x1 (by decide) h, rfl⟩
  | .andReg _ _, h => ⟨.andReg (fieldX op) (fieldY op), wordRR_of_selects 0x8 0x2 (by decide) h, rfl⟩
  | .xorReg _ _, h => ⟨.xorReg (fieldX op) (fieldY op), wordRR_of_selects 0x8 0x3 (by decide) h, rfl⟩
  | .addReg _ _, h => ⟨.addReg (fieldX op) (fieldY op), wordRR_of_selects 0x8 0x4 (by decide) h, rfl⟩
  | .subReg _ _, h => ⟨.subReg (fieldX op) (fieldY op), wordRR_of_selects 0x8 0x5 (by decide) h, rfl⟩
  | .shr _ _, h => ⟨.shr (fieldX op) (fieldY op), wordRR_of_selects 0x8 0x6 (by decide) h, rfl⟩
  | .subnReg _ _, h => ⟨.subnReg (fieldX op) (fieldY op), wordRR_of_selects 0x8 0x7 (by decide) h, rfl⟩
  | .shl _ _, h => ⟨.shl (fieldX op) (fieldY op), wordRR_of_selects 0x8 0xE (by decide) h, rfl⟩
  | .sneReg _ _, h => ⟨.sneReg (fieldX op) (fieldY op), wordRR_of_selects 0x9 0x0 (by decide) h, rfl⟩
  | .ldI _, h => ⟨.ldI (fieldNNN op), wordA_of_selects 0xA (by decide) h, rfl⟩
  | .jpV0 _, h => ⟨.jpV0 (fieldNNN op), wordA_of_selects 0xB (by decide) h, rfl⟩
  | .rnd _ _, h => ⟨.rnd (fieldX op) (fieldNN op), wordRI_of_selects 0xC (by decide) h, rfl⟩
  | .drw _ _ _, h => ⟨.drw (fieldX op) (fieldY op) (fieldN op), wordRRN_of_selects 0xD (by decide) h, rfl⟩
  | .skp _, h => ⟨.skp (fieldX op), wordR_of_selects 0xE 0x9E (by decide) h, rfl⟩
  | .sknp _, h => ⟨.sknp (fieldX op), wordR_of_selects 0xE 0xA1 (by decide) h, rfl⟩
  | .ldVxDT _, h => ⟨.ldVxDT (fieldX op), wordR_of_selects 0xF 0x07 (by decide) h, rfl⟩
  | .ldVxK _, h => ⟨.ldVxK (fieldX op), wordR_of_selects 0xF 0x0A (by decide) h, rfl⟩
  | .ldDTVx _, h => ⟨.ldDTVx (fieldX op), wordR_of_selects 0xF 0x15 (by decide) h, rfl⟩
  | .ldSTVx _, h => ⟨.ldSTVx (fieldX op), wordR_of_selects 0xF 0x18 (by decide) h, rfl⟩
  | .addI _, h => ⟨.addI (fieldX op), wordR_of_selects 0xF 0x1E (by decide) h, rfl⟩
  | .ldF _, h => ⟨.ldF (fieldX op), wordR_of_selects 0xF 0x29 (by decide) h, rfl⟩
  | .ldB _, h => ⟨.ldB (fieldX op), wordR_of_selects 0xF 0x33 (by decide) h, rfl⟩
  | .storeRegs _, h => ⟨.storeRegs (fieldX op), wordR_of_selects 0xF 0x55 (by decide) h, rfl⟩
  | .loadRegs _, h => ⟨.loadRegs (fieldX op), wordR_of_selects 0xF 0x65 (by decide) h, rfl⟩

/-! ## The opcode map -/

/-- One instruction of each row, in the map's order. -/
def rowSamples : List Instr :=
  [.cls, .ret, .jp 0, .call 0, .seImm 0 0, .sneImm 0 0, .seReg 0 0, .ldImm 0 0, .addImm 0 0, .ldReg 0 0, .orReg 0 0,
    .andReg 0 0, .xorReg 0 0, .addReg 0 0, .subReg 0 0, .shr 0 0, .subnReg 0 0, .shl 0 0, .sneReg 0 0, .ldI 0, .jpV0 0,
    .rnd 0 0, .drw 0 0 0, .skp 0, .sknp 0, .ldVxDT 0, .ldVxK 0, .ldDTVx 0, .ldSTVx 0, .addI 0, .ldF 0, .ldB 0,
    .storeRegs 0, .loadRegs 0]

theorem opcodeMap_eq_rows : opcodeMap = rowSamples.map Instr.row := rfl

/-- A word that a row of the map selects is the word of an instruction with that row. -/
theorem exists_encode_of_mem_of_selects {r : OpcodeRow} (hmem : r ∈ opcodeMap) (hsel : r.selects op = true) :
    ∃ j, op = encode j ∧ j.row = r := by
  rw [opcodeMap_eq_rows] at hmem
  obtain ⟨i, -, rfl⟩ := List.mem_map.mp hmem
  exact exists_encode_of_selects i hsel

/-- A word some row selects decodes. -/
theorem decode_of_wordMapped (h : wordMapped op = true) : ∃ i, decode op = .ok i := by
  obtain ⟨r, hmem, hsel⟩ := List.any_eq_true.mp h
  obtain ⟨j, rfl, -⟩ := exists_encode_of_mem_of_selects hmem hsel
  exact ⟨j, decode_encode j⟩

/-- No two rows select one word: the word would be that of two instructions. -/
theorem row_unique_of_selects {r q : OpcodeRow} (hr : r ∈ opcodeMap) (hq : q ∈ opcodeMap)
    (hrs : r.selects op = true) (hqs : q.selects op = true) : r = q := by
  obtain ⟨i, hi, rfl⟩ := exists_encode_of_mem_of_selects hr hrs
  obtain ⟨j, hj, rfl⟩ := exists_encode_of_mem_of_selects hq hqs
  rw [encode_injective (hi.symm.trans hj)]

/-! ## The words that do not decode -/

theorem fieldClass_eq_iff (c : BitVec 4) : fieldClass op = c ↔ op.toNat / 4096 = c.toNat := by
  rw [← BitVec.toNat_inj, toNat_fieldClass]

theorem fieldN_eq_iff (n : BitVec 4) : fieldN op = n ↔ op.toNat % 16 = n.toNat := by
  rw [← BitVec.toNat_inj, toNat_fieldN]

theorem fieldNN_eq_iff (nn : Byte) : fieldNN op = nn ↔ op.toNat % 256 = nn.toNat := by
  rw [← BitVec.toNat_inj, toNat_fieldNN]

theorem ite_ok_eq_error_iff {c : Prop} [Decidable c] {rest : Except DecodeError Instr} {e : DecodeError} :
    (if c then .ok i else rest) = .error e ↔ ¬ c ∧ rest = .error e := by
  by_cases hc : c <;> simp [hc]

section
variable {e : DecodeError}

theorem decodeClass0_eq_error_iff :
    decodeClass0 op = .error e ↔ (op.toNat ≠ 0x00E0 ∧ op.toNat ≠ 0x00EE) ∧ .unmapped op = e := by
  simp only [decodeClass0, ite_ok_eq_error_iff, Except.error.injEq, ← BitVec.toNat_inj, BitVec.reduceToNat, and_assoc,
    ne_eq]

theorem decodeClass8_eq_error_iff :
    decodeClass8 op = .error e ↔ op.toNat % 16 ∈ [0x8, 0x9, 0xA, 0xB, 0xC, 0xD, 0xF] ∧ .unmapped op = e := by
  simp only [decodeClass8, ite_ok_eq_error_iff, Except.error.injEq, fieldN_eq_iff, BitVec.reduceToNat, ← and_assoc,
    List.mem_cons, List.not_mem_nil, or_false]
  refine and_congr_left' ?_
  omega

theorem decodeClassE_eq_error_iff :
    decodeClassE op = .error e ↔ op.toNat % 256 ∉ [0x9E, 0xA1] ∧ .unmapped op = e := by
  simp only [decodeClassE, ite_ok_eq_error_iff, Except.error.injEq, fieldNN_eq_iff, BitVec.reduceToNat, ← and_assoc,
    List.mem_cons, List.not_mem_nil, or_false, not_or]

theorem decodeClassF_eq_error_iff :
    decodeClassF op = .error e ↔
      op.toNat % 256 ∉ [0x07, 0x0A, 0x15, 0x18, 0x1E, 0x29, 0x33, 0x55, 0x65] ∧ .unmapped op = e := by
  simp only [decodeClassF, ite_ok_eq_error_iff, Except.error.injEq, fieldNN_eq_iff, BitVec.reduceToNat, and_assoc,
    List.mem_cons, List.not_mem_nil, or_false, not_or]

end

/-- Rule R118's classes, on the digits of the word. -/
def UnmappedDigits (op : Word) : Prop :=
  (op.toNat / 4096 = 0x0 ∧ op.toNat ≠ 0x00E0 ∧ op.toNat ≠ 0x00EE) ∨
  (op.toNat / 4096 = 0x5 ∧ op.toNat % 16 ≠ 0) ∨
  (op.toNat / 4096 = 0x8 ∧ op.toNat % 16 ∈ [0x8, 0x9, 0xA, 0xB, 0xC, 0xD, 0xF]) ∨
  (op.toNat / 4096 = 0x9 ∧ op.toNat % 16 ≠ 0) ∨
  (op.toNat / 4096 = 0xE ∧ op.toNat % 256 ∉ [0x9E, 0xA1]) ∨
  (op.toNat / 4096 = 0xF ∧ op.toNat % 256 ∉ [0x07, 0x0A, 0x15, 0x18, 0x1E, 0x29, 0x33, 0x55, 0x65])

/-- When a word is refused, and with what: the first test of the dispatch is on the word's highest digit, one of sixteen;
in six of the classes a second test decides (0x5 and 0x9 ask for a zero low digit), in the others every word decodes. -/
theorem decode_eq_error_iff {e : DecodeError} : decode op = .error e ↔ UnmappedDigits op ∧ .unmapped op = e := by
  have hclass : op.toNat / 4096 < 16 := by have := op.isLt; omega
  simp only [decode, UnmappedDigits, fieldClass_eq_iff, BitVec.reduceToNat]
  generalize op.toNat / 4096 = n3 at hclass
  interval_cases n3 <;>
    simp [decodeClass0_eq_error_iff, decodeClass8_eq_error_iff, decodeClassE_eq_error_iff, decodeClassF_eq_error_iff,
      ite_ok_eq_error_iff, fieldN_eq_iff]

/-- Settles O3: a decoded word is the word of its instruction, whose row selects it; a word that a row selects is the word
of an instruction with that row, which gives back the row. -/
theorem dispatchAgreesWithTheOpcodeMap : Obligations.DispatchAgreesWithTheOpcodeMap := by
  refine ⟨fun op i h => ⟨i.row_mem_opcodeMap, row_selects_of_decode h⟩, fun op h => ?_, fun op h => decode_of_wordMapped h,
    fun op r q hr hq hrs hqs => row_unique_of_selects hr hq hrs hqs⟩
  obtain ⟨e, he⟩ := decode_eq_error_of_unmapped h
  rw [he, (decode_eq_error_iff.mp he).2]

/-- Settles O4: the refusals of the dispatch, class by class. -/
theorem unmappedWordsByClass : Obligations.UnmappedWordsByClass := fun _ =>
  decode_eq_error_iff.trans (and_iff_left rfl)

/-- Settles O5: thirteen words, each decoded by running the dispatch on it. -/
theorem wordsOfTheSpecDecode : Obligations.WordsOfTheSpecDecode := by
  unfold Obligations.WordsOfTheSpecDecode
  decide

end Sys2Proof
end

section
/-! What an instruction does to each field of the state, field by field, and that this is all it does: `exec_eq_after`.
Every frame is read off from it. -/

namespace Sys2Proof.Machine

/-! ## The fields after an instruction -/

section
variable (s : State)

/-- What a clamped access of `count` bytes returns (20_memory.md rule R85), in any state. -/
def clampResult (op : Word) (count : Nat) : Result :=
  if clampCount s.i count < count then .status (.outOfBoundsAccess s.instrAddr op (s.i.toNat + clampCount s.i count))
  else s.result

/-- The state with the registers an instruction leaves (10_state.md rule R31). -/
def regsAfter : Instr → State
  | .ldImm x nn => s.setReg x nn
  | .addImm x nn => s.setReg x (addCarry (s.reg x) nn).1
  | .ldReg x y => s.setReg x (s.reg y)
  | .orReg x y => s.setReg x (s.reg x ||| s.reg y)
  | .andReg x y => s.setReg x (s.reg x &&& s.reg y)
  | .xorReg x y => s.setReg x (s.reg x ^^^ s.reg y)
  | .addReg x y => s.setRegFlag x (addCarry (s.reg x) (s.reg y))
  | .subReg x y => s.setRegFlag x (subNoBorrow (s.reg x) (s.reg y))
  | .shr x _ => s.setRegFlag x (shiftRightOut (s.reg x))
  | .subnReg x y => s.setRegFlag x (subNoBorrow (s.reg y) (s.reg x))
  | .shl x _ => s.setRegFlag x (shiftLeftOut (s.reg x))
  | .rnd x nn => s.setReg x (Config.randomByte s.draws &&& nn)
  | .drw x y n => s.setFlag (drawSprite s.fb (s.reg x) (s.reg y) (drawnRows s n)).2
  | .ldVxDT x => s.setReg x s.dt
  | .loadRegs x => s.setRegs (regsUpTo x) ((s.span (x.val + 1)).map s.readByte)
  | _ => s

/-- The state with the bytes an instruction stores (20_memory.md rules R79, R82). -/
def memAfter : Instr → State
  | .ldB x => s.writeBytes (s.span 3) (decimalDigits (s.reg x))
  | .storeRegs x => s.writeBytes (s.span (x.val + 1)) ((regsUpTo x).map s.reg)
  | _ => s

/-- I (10_state.md rule R34). -/
def indexAfter : Instr → Word
  | .ldI nnn => zext16 nnn
  | .addI x => BitVec.ofNat 16 ((s.i.toNat + (s.reg x).toNat) % 4096)
  | .ldF x => glyphAddress (s.reg x)
  | _ => s.i

/-- PC (40_cycle.md rule R150). -/
def pcAfter : Instr → Word
  | .ret => if h : 0 < s.sp.val then s.stack[s.sp.val - 1]'(by omega) else s.pc
  | .jp nnn => zext16 nnn
  | .call nnn => if s.sp.val < 16 then zext16 nnn else s.pc
  | .jpV0 nnn => zext16 nnn + zext16 (s.reg Reg.v0)
  | .seImm x nn => if s.reg x = nn then s.pc + 2 else s.pc
  | .sneImm x nn => if s.reg x = nn then s.pc else s.pc + 2
  | .seReg x y => if s.reg x = s.reg y then s.pc + 2 else s.pc
  | .sneReg x y => if s.reg x = s.reg y then s.pc else s.pc + 2
  | .skp x => if s.key (lowNibble (s.reg x)) = true then s.pc + 2 else s.pc
  | .sknp x => if s.key (lowNibble (s.reg x)) = true then s.pc else s.pc + 2
  | _ => s.pc

/-- SP, which stays between 0 and 16 (10_state.md rule R38). -/
def spAfter : Instr → Fin 17
  | .ret => ⟨s.sp.val - 1, by omega⟩
  | .call _ => ⟨min (s.sp.val + 1) 16, by omega⟩
  | _ => s.sp

/-- The stack entries (42_flow.md rule R190). -/
def stackAfter : Instr → Vector Word 16
  | .call _ => s.stack.setIfInBounds s.sp.val s.pc
  | _ => s.stack

/-- HALT (60_exceptions.md rule R332). -/
def haltAfter : Instr → Option Cause
  | .ret => if 0 < s.sp.val then s.halt else some (.stackUnderflow s.instrAddr (encode .ret))
  | .call nnn => if s.sp.val < 16 then s.halt else some (.stackOverflow s.instrAddr (encode (.call nnn)))
  | _ => s.halt

/-- The status of the cycle (60_exceptions.md rule R336). -/
def resultAfter : Instr → Result
  | .ret => if 0 < s.sp.val then s.result else .status (.stackUnderflow s.instrAddr (encode .ret))
  | .call nnn => if s.sp.val < 16 then s.result else .status (.stackOverflow s.instrAddr (encode (.call nnn)))
  | .drw x y n => clampResult s (encode (.drw x y n)) n.toNat
  | .addI x => if 0x1000 ≤ s.i.toNat + (s.reg x).toNat
      then .status (.outOfBoundsAccess s.instrAddr (encode (.addI x)) (s.i.toNat + (s.reg x).toNat)) else s.result
  | .ldB x => clampResult s (encode (.ldB x)) 3
  | .storeRegs x => clampResult s (encode (.storeRegs x)) (x.val + 1)
  | .loadRegs x => clampResult s (encode (.loadRegs x)) (x.val + 1)
  | _ => s.result

/-- FB (41_display.md rules R170, R173). -/
def fbAfter : Instr → Grid
  | .cls => Grid.clear
  | .drw x y n => (drawSprite s.fb (s.reg x) (s.reg y) (drawnRows s n)).1
  | _ => s.fb

/-- DT (45_keys_timers.md rule R294). -/
def dtAfter : Instr → Byte
  | .ldDTVx x => s.reg x
  | _ => s.dt

/-- ST (45_keys_timers.md rule R295). -/
def stAfter : Instr → Byte
  | .ldSTVx x => s.reg x
  | _ => s.st

/-- WAIT (45_keys_timers.md rule R293). -/
def waitAfter : Instr → Option Reg
  | .ldVxK x => some x
  | _ => s.wait

/-- LATCH (45_keys_timers.md rule R293). -/
def latchAfter : Instr → Option Key
  | .ldVxK _ => none
  | _ => s.latch

/-- The count of draws (43_alu.md rule R231). -/
def drawsAfter : Instr → Nat
  | .rnd _ _ => s.draws + 1
  | _ => s.draws

/-- The state after an instruction. The keypad, the parameters and the schedule are no instruction's. -/
def State.after (i : Instr) : State :=
  { s with
    v := (regsAfter s i).v
    i := indexAfter s i
    pc := pcAfter s i
    sp := spAfter s i
    stack := stackAfter s i
    dt := dtAfter s i
    st := stAfter s i
    fb := fbAfter s i
    mem := (memAfter s i).mem
    wait := waitAfter s i
    latch := latchAfter s i
    halt := haltAfter s i
    result := resultAfter s i
    draws := drawsAfter s i }

end

/-! ## They are what `exec` leaves -/

theorem State.flagClamp_result_eq (s : State) (op : Word) (count : Nat) :
    (s.flagClamp op count).result = clampResult s op count := by
  rw [State.flagClamp_eq, State.answer_result, clampResult]

/-- A skip on a condition that fails. -/
theorem State.skipIf_not (s : State) (c : Bool) : s.skipIf (!c) = s.setPc (if c = true then s.pc else s.pc + 2) := by
  cases c <;> rfl

/-- A return with an entry on the stack, and one without. -/
theorem exec_ret_eq_after (s : State) : exec .ret s = .next (s.after .ret) := by
  obtain ⟨h, e⟩ | ⟨h, e⟩ := execRet_cases s
  · refine (e : exec .ret s = _).trans (congrArg _ ?_)
    simp only [State.after, pcAfter, haltAfter, resultAfter, dif_pos h, if_pos h]
    rfl
  · have hempty : ¬ 0 < s.sp.val := by omega
    have hsp : (⟨s.sp.val - 1, by omega⟩ : Fin 17) = s.sp := Fin.ext (by simp [h])
    refine (e : exec .ret s = _).trans (congrArg _ ?_)
    simp only [State.after, pcAfter, haltAfter, resultAfter, spAfter, hsp, dif_neg hempty, if_neg hempty]
    rfl

/-- A call with room on the stack, and one without. -/
theorem exec_call_eq_after (nnn : BitVec 12) (s : State) : exec (.call nnn) s = .next (s.after (.call nnn)) := by
  obtain ⟨h, e⟩ | ⟨h, e⟩ := execCall_cases nnn s
  · have hsp : (⟨min (s.sp.val + 1) 16, by omega⟩ : Fin 17) = ⟨s.sp.val + 1, by omega⟩ := Fin.ext (by simp; omega)
    have hstack : s.stack.setIfInBounds s.sp.val s.pc = s.stack.set s.sp.val s.pc := by
      simp [Vector.setIfInBounds, Vector.set, Array.setIfInBounds, h]
    refine (e : exec (.call nnn) s = _).trans (congrArg _ ?_)
    simp only [State.after, pcAfter, haltAfter, resultAfter, spAfter, stackAfter, hsp, hstack, if_pos h]
    rfl
  · have hfull : ¬ s.sp.val < 16 := by omega
    have hsp : (⟨min (s.sp.val + 1) 16, by omega⟩ : Fin 17) = s.sp := Fin.ext (by simp [h])
    have hstack : s.stack.setIfInBounds s.sp.val s.pc = s.stack := by
      simp [Vector.setIfInBounds, Array.setIfInBounds, h]
    refine (e : exec (.call nnn) s = _).trans (congrArg _ ?_)
    simp only [State.after, pcAfter, haltAfter, resultAfter, spAfter, stackAfter, hsp, hstack, if_neg hfull]
    rfl

/-- Every instruction answers a next state, in which each field is as the definitions above say. -/
theorem exec_eq_after (i : Instr) (s : State) : exec i s = .next (s.after i) := by
  cases i
  case ret => exact exec_ret_eq_after s
  case call nnn => exact exec_call_eq_after nnn s
  case seImm x nn => exact congrArg _ (State.skipIf_beq s _ _)
  case sneImm x nn => exact congrArg _ (State.skipIf_bne s _ _)
  case seReg x y => exact congrArg _ (State.skipIf_beq s _ _)
  case sneReg x y => exact congrArg _ (State.skipIf_bne s _ _)
  case skp x => exact congrArg _ (State.skipIf_eq s _)
  case sknp x => exact congrArg _ (State.skipIf_not s _)
  case addI x => exact execAddI_eq x s
  case drw x y n => exact (execDrw_eq x y n s).trans (by rw [State.flagClamp_result_eq]; rfl)
  case ldB x => exact (execLdB_eq x s).trans (by rw [State.flagClamp_result_eq]; rfl)
  case storeRegs x => exact (execStoreRegs_eq x s).trans (by rw [State.flagClamp_result_eq]; rfl)
  case loadRegs x => exact (execLoadRegs_eq x s).trans (by rw [State.flagClamp_result_eq]; rfl)
  all_goals rfl

end Sys2Proof.Machine
end

section
/-! The frames: what each instruction leaves of the state, read off field by field (10_state.md, 20_memory.md, 40_cycle.md,
60_exceptions.md). -/

namespace Sys2Proof.Machine

variable {i : Instr} {s t : State}

/-- The one next state of an instruction. -/
theorem eq_after_of_exec (h : exec i s = .next t) : t = s.after i :=
  Host.Outcome.next.inj (h.symm.trans (exec_eq_after i s))

theorem State.reg_after (r : Reg) : (s.after i).reg r = (regsAfter s i).reg r := rfl

theorem memAfter_params : (memAfter s i).params = s.params := by
  cases i
  case ldB x => exact s.writeBytes_params _ _
  case storeRegs x => exact s.writeBytes_params _ _
  all_goals rfl

theorem State.readByte_after (a : Addr) : (s.after i).readByte a = (memAfter s i).readByte a := by
  simp only [State.readByte, State.image, State.after, memAfter_params]

/-! ## The general registers (10_state.md rules R31, R32) -/

/-- A register an instruction does not write: it is not Vx, nor VF where the flag is written, nor in V0 to Vx for FX65. -/
theorem reg_regsAfter_of_not_writesReg {r : Reg} (h : writesReg i r = false) : (regsAfter s i).reg r = s.reg r := by
  cases i
  case loadRegs x =>
    have hr : r ∉ regsUpTo x := fun hmem => of_decide_eq_false h ((mem_regsUpTo x r).mp hmem)
    exact s.reg_setRegs_of_notMem _ _ r hr
  case drw x y n =>
    exact (s.reg_setFlag _ r).trans (if_neg (by simpa [writesReg] using h))
  all_goals simp_all [regsAfter, writesReg, State.reg_setReg, State.reg_setRegFlag]

/-- The flag instructions end with a write of VF. -/
theorem exists_setFlag_of_writesFlag (h : writesFlag i = true) : ∃ (p : State) (f : Bool), regsAfter s i = p.setFlag f := by
  cases i
  case addReg x y => exact ⟨_, _, rfl⟩
  case subReg x y => exact ⟨_, _, rfl⟩
  case shr x y => exact ⟨_, _, rfl⟩
  case subnReg x y => exact ⟨_, _, rfl⟩
  case shl x y => exact ⟨_, _, rfl⟩
  case drw x y n => exact ⟨_, _, rfl⟩
  all_goals cases h

theorem State.vf_setFlag (p : State) (f : Bool) : (p.setFlag f).reg Reg.vf = 0 ∨ (p.setFlag f).reg Reg.vf = 1 := by
  rw [State.reg_setFlag, if_pos rfl]
  cases f
  · exact .inl rfl
  · exact .inr rfl

/-- Settles O48: only the registers of `regsAfter` can differ. -/
theorem otherGeneralRegistersAreKept : Obligations.OtherGeneralRegistersAreKept := by
  intro i s t r h hw
  rw [eq_after_of_exec h]
  exact reg_regsAfter_of_not_writesReg hw

/-- Settles O49: a flag instruction ends with the write of VF; for any other VF is a register like the rest. -/
theorem onlyTheFlagInstructionsWriteVfAsAFlag : Obligations.OnlyTheFlagInstructionsWriteVfAsAFlag := by
  intro i s t h
  rw [eq_after_of_exec h]
  refine ⟨fun hf => ?_, fun _ hw => reg_regsAfter_of_not_writesReg hw⟩
  obtain ⟨p, f, e⟩ := exists_setFlag_of_writesFlag (s := s) hf
  rw [State.reg_after, e]
  exact p.vf_setFlag f

/-! ## Memory (20_memory.md rules R79, R82, R85) -/

theorem State.writable_eq_false_iff {a : Addr} : s.writable a = false ↔ s.params.fontWritable = false ∧ a.val ≤ 0x04F := by
  simp [State.writable, and_comm]

theorem readByte_memAfter_of_notMem {a : Addr} (h : a ∉ s.span (storeCount i)) :
    (memAfter s i).readByte a = s.readByte a := by
  cases i
  case ldB x => exact s.readByte_writeBytes_of_notMem _ _ a h
  case storeRegs x => exact s.readByte_writeBytes_of_notMem _ _ a h
  all_goals rfl

theorem readByte_memAfter_of_protected {a : Addr} (h : s.writable a = false) :
    (memAfter s i).readByte a = s.readByte a := by
  cases i
  case ldB x => exact s.readByte_writeBytes_of_protected _ _ a h
  case storeRegs x => exact s.readByte_writeBytes_of_protected _ _ a h
  all_goals rfl

/-- Settles O50: the two instructions that store write along their span, and not where a write is not performed. -/
theorem otherMemoryIsKept : Obligations.OtherMemoryIsKept := by
  intro i s t a h hkept
  rw [eq_after_of_exec h, State.readByte_after]
  obtain hspan | hfont := hkept
  · exact readByte_memAfter_of_notMem hspan
  · exact readByte_memAfter_of_protected (State.writable_eq_false_iff.mpr hfont)

/-! ## The other registers, the screen and the control state -/

/-- Settles O51: in every field's own table the instructions not excepted fall under the last entry. -/
theorem indexTimersAndStackAreKept : Obligations.IndexTimersAndStackAreKept := by
  intro i s t h
  rw [eq_after_of_exec h]
  refine ⟨fun hldI haddI hldF => ?index, fun hdt => ?dt, fun hst => ?st, fun hcall => ?stack, fun hcall hret => ?sp⟩
  case index => simp only [State.after, indexAfter]
  case dt => simp only [State.after, dtAfter]
  case st => simp only [State.after, stAfter]
  case stack => simp only [State.after, stackAfter]
  case sp => simp only [State.after, spAfter]

/-- Settles O52: as for O51, and no instruction writes the keypad, the parameters or the schedule. -/
theorem screenAndControlStateAreKept : Obligations.ScreenAndControlStateAreKept := by
  intro i s t h
  rw [eq_after_of_exec h]
  refine ⟨fun hcls hdrw => ?fb, fun hk => ⟨?wait, ?latch⟩, fun hcall hret => ?halt, rfl, rfl, rfl⟩
  case fb => simp only [State.after, fbAfter]
  case wait => simp only [State.after, waitAfter]
  case latch => simp only [State.after, latchAfter]
  case halt => simp only [State.after, haltAfter]

/-! ## The effect on PC (40_cycle.md rule R150) -/

theorem pcAfter_of_goOn (h : pcEffect i = .goOn) : pcAfter s i = s.pc := by
  cases i <;> simp_all [pcAfter, pcEffect]

theorem pcAfter_of_skip (h : pcEffect i = .skip) : pcAfter s i = s.pc ∨ pcAfter s i = s.pc + 2 := by
  cases i
  case seImm x nn => exact (ite_eq_or_eq _ _ _).symm
  case sneImm x nn => exact ite_eq_or_eq _ _ _
  case seReg x y => exact (ite_eq_or_eq _ _ _).symm
  case sneReg x y => exact ite_eq_or_eq _ _ _
  case skp x => exact (ite_eq_or_eq _ _ _).symm
  case sknp x => exact ite_eq_or_eq _ _ _
  all_goals cases h

/-- The call and the return that halt (60_exceptions.md rules R331, R332). -/
def AtStackLimit (i : Instr) (s : State) : Prop :=
  ((∃ nnn, i = .call nnn) ∧ s.sp.val = 16) ∨ (i = .ret ∧ s.sp.val = 0)

theorem halted_of_atStackLimit (h : AtStackLimit i s) : pcAfter s i = s.pc ∧ (haltAfter s i).isSome = true := by
  obtain ⟨⟨nnn, rfl⟩, hsp⟩ | ⟨rfl, hsp⟩ := h <;> simp [pcAfter, haltAfter, hsp]

theorem haltAfter_of_not_atStackLimit (h : ¬ AtStackLimit i s) : haltAfter s i = s.halt := by
  cases i
  case call nnn =>
    have hroom : s.sp.val < 16 := by
      by_contra hfull
      exact h (.inl ⟨⟨nnn, rfl⟩, by omega⟩)
    exact if_pos hroom
  case ret =>
    have hentry : 0 < s.sp.val := by
      by_contra hempty
      exact h (.inr ⟨rfl, by omega⟩)
    exact if_pos hentry
  all_goals rfl

theorem toNat_jpV0_target (nnn : BitVec 12) (b : Byte) : (zext16 nnn + zext16 b).toNat = nnn.toNat + b.toNat := by
  simp only [zext16, BitVec.toNat_add, BitVec.toNat_setWidth]
  omega

theorem eq_lowNibble {k : Key} {v : Byte} (h : k.val = v.toNat % 16) : k = lowNibble v := Fin.ext h

/-- Settles O53: each clause is an entry of `pcAfter`, the halts at the stack's limits apart. -/
theorem oneControlFlowEffect : Obligations.OneControlFlowEffect := by
  intro i s t h
  rw [eq_after_of_exec h]
  refine ⟨pcAfter_of_goOn, pcAfter_of_skip, ?seImm, ?sneImm, ?seReg, ?sneReg, ?skp, ?sknp, ?jp, ?jpV0, ?call, ?ret,
    halted_of_atStackLimit, fun hne => by_contra fun hlimit => hne (haltAfter_of_not_atStackLimit hlimit)⟩
  case seImm => rintro x nn rfl; rfl
  case sneImm => rintro x nn rfl; rfl
  case seReg => rintro x y rfl; rfl
  case sneReg => rintro x y rfl; rfl
  case skp => rintro x k rfl hk; rw [eq_lowNibble hk]; rfl
  case sknp => rintro x k rfl hk; rw [eq_lowNibble hk]; rfl
  case jp => rintro nnn rfl; exact toNat_zext16_address nnn
  case jpV0 => rintro nnn rfl; exact toNat_jpV0_target nnn (s.reg 0)
  case call =>
    rintro nnn rfl hroom
    exact (congrArg BitVec.toNat (if_pos hroom)).trans (toNat_zext16_address nnn)
  case ret =>
    rintro k rfl hk
    have hpos : 0 < s.sp.val := by omega
    refine (dif_pos hpos).trans ?_
    simp only [hk, Nat.add_sub_cancel, State.entry]

/-! ## The statuses (60_exceptions.md rule R336) -/

/-- The address a clamped access is flagged with is never below 0x1000. -/
theorem exists_of_clampResult_ne {op : Word} {count : Nat} (h : clampResult s op count ≠ s.result) :
    ∃ ea, clampResult s op count = .status (.outOfBoundsAccess (s.pc - 2) op ea) ∧ 0x1000 ≤ ea := by
  unfold clampResult at h ⊢
  by_cases hc : clampCount s.i count < count
  · refine ⟨_, if_pos hc, ?_⟩
    unfold clampCount at hc ⊢
    omega
  · exact absurd (if_neg hc) h

/-- Settles O59: seven instructions have an entry of their own in `resultAfter`; each raises its status on its own
condition. -/
theorem statusesOfEachInstruction : Obligations.StatusesOfEachInstruction := by
  intro i s t h hne
  rw [eq_after_of_exec h] at hne ⊢
  change resultAfter s i ≠ s.result at hne
  change (_ ∧ ∃ a, resultAfter s i = _ ∧ _) ∨ (∃ nnn a, _ ∧ resultAfter s i = _ ∧ _) ∨
    (_ ∧ ∃ ea, resultAfter s i = _ ∧ _)
  cases i
  case ret =>
    have hempty : ¬ 0 < s.sp.val := fun hpos => hne (if_pos hpos)
    exact .inl ⟨rfl, _, if_neg hempty, by omega⟩
  case call nnn =>
    have hfull : ¬ s.sp.val < 16 := fun hroom => hne (if_pos hroom)
    exact .inr (.inl ⟨nnn, _, rfl, if_neg hfull, by have := s.sp.isLt; omega⟩)
  case addI x =>
    have hsum : 0x1000 ≤ s.i.toNat + (s.reg x).toNat := by_contra fun hlt => hne (if_neg hlt)
    exact .inr (.inr ⟨.inr ⟨x, .inl rfl⟩, _, if_pos hsum, hsum⟩)
  case drw x y n => exact .inr (.inr ⟨.inl ⟨x, y, n, rfl⟩, exists_of_clampResult_ne hne⟩)
  case ldB x => exact .inr (.inr ⟨.inr ⟨x, .inr (.inl rfl)⟩, exists_of_clampResult_ne hne⟩)
  case storeRegs x => exact .inr (.inr ⟨.inr ⟨x, .inr (.inr (.inl rfl))⟩, exists_of_clampResult_ne hne⟩)
  case loadRegs x => exact .inr (.inr ⟨.inr ⟨x, .inr (.inr (.inr rfl))⟩, exists_of_clampResult_ne hne⟩)
  all_goals exact absurd rfl hne

/-! ## The random source (40_cycle.md rule R153) -/

/-- The same state with another count of draws. -/
def State.withDraws (s : State) (d : Nat) : State := { s with draws := d }

section
variable {d : Nat}

theorem State.withDraws_setRegs (rs : List Reg) (bs : List Byte) :
    (s.withDraws d).setRegs rs bs = (s.setRegs rs bs).withDraws d := by
  induction rs generalizing s bs with
  | nil => rfl
  | cons x rs ih =>
    cases bs with
    | nil => rfl
    | cons b bs => exact ih (s := s.setReg x b) bs

theorem State.withDraws_writeByte (a : Addr) (b : Byte) :
    (s.withDraws d).writeByte a b = (s.writeByte a b).withDraws d :=
  (apply_ite (State.withDraws · d) (s.writable a = true) (s.pokeByte a b) s).symm

theorem State.withDraws_writeBytes (as : List Addr) (bs : List Byte) :
    (s.withDraws d).writeBytes as bs = (s.writeBytes as bs).withDraws d := by
  induction as generalizing s bs with
  | nil => rfl
  | cons a as ih =>
    cases bs with
    | nil => rfl
    | cons b bs => rw [State.writeBytes, State.withDraws_writeByte, ih, State.writeBytes]

theorem regsAfter_withDraws (hrnd : ∀ x nn, i ≠ .rnd x nn) :
    regsAfter (s.withDraws d) i = (regsAfter s i).withDraws d := by
  cases i
  case rnd x nn => exact absurd rfl (hrnd x nn)
  case loadRegs x => exact State.withDraws_setRegs _ _
  all_goals rfl

theorem memAfter_withDraws : memAfter (s.withDraws d) i = (memAfter s i).withDraws d := by
  cases i
  case ldB x => exact State.withDraws_writeBytes _ _
  case storeRegs x => exact State.withDraws_writeBytes _ _
  all_goals rfl

/-- No entry but those of CXNN reads the count of draws. -/
theorem State.after_withDraws (hrnd : ∀ x nn, i ≠ .rnd x nn) :
    (s.withDraws d).after i = (s.after i).withDraws d := by
  simp only [State.after, regsAfter_withDraws hrnd, memAfter_withDraws]
  cases i
  case rnd x nn => exact absurd rfl (hrnd x nn)
  all_goals rfl

end

/-- Settles O29: only CXNN counts a draw, and the state after any other instruction does not depend on the count. -/
theorem onlyRndDependsOnTheRandomSource : Obligations.OnlyRndDependsOnTheRandomSource := by
  intro i s t d hrnd h
  rw [eq_after_of_exec h]
  refine ⟨?draws, (exec_eq_after i _).trans (congrArg _ (State.after_withDraws hrnd))⟩
  case draws => simp only [State.after, drawsAfter]

end Sys2Proof.Machine
end

section
/-! What each host operation does, one at a time and in runs (10_state.md sections 5 and 6, 40_cycle.md section 1,
45_keys_timers.md section 2, 60_exceptions.md sections 3 and 4, 70_reset_and_hazards.md section 1). -/

namespace Sys2Proof.Machine

variable {s t : State}

/-! ## One equation per host operation -/

/-- Rule R380: memory lists nothing, so every byte reads as the image. -/
theorem step_of_reset (h : s.nextCall = .reset) :
    step s = .next { State.reset with params := s.params, draws := s.draws, schedule := s.schedule.tail } :=
  step_of_nextCall h

/-- Rule R383, for a ROM that fits: a reset and the bytes at 0x200. -/
theorem hostLoadProgram_of_fits {bytes : List Byte} (h : ¬ maxRom < bytes.length) (s : State) :
    hostLoadProgram bytes s =
      { State.reset with
        mem := memLoad s.image [] 0x200 bytes, params := s.params, draws := s.draws, schedule := s.schedule,
        result := .loaded } := if_neg h

/-- Rule R56. -/
theorem step_of_snapshot (h : s.nextCall = .snapshot) :
    step s = .next (s.dropCall.answer (.snapshot s.toBlock s.params)) := step_of_nextCall h

/-- LATCH after a key-press event (60_exceptions.md rule R352). -/
def latchAfterKey (s : State) (k : Key) (pressed : Bool) : Option Key :=
  if pressed && (s.wait.isSome && s.latch.isNone) then some k else s.latch

/-- Everything `setKey` does for a key of the keypad (rule R352). -/
theorem hostSetKey_eq (k : Key) (pressed : Bool) (s : State) : hostSetKey k.val pressed s =
    .next { s with
      keys := s.keys.set k.val pressed, latch := latchAfterKey s k pressed, result := .nothing } := by
  refine (dif_pos k.isLt).trans (congrArg _ ?_)
  cases pressed
  · rfl
  · cases hw : s.wait <;> cases hl : s.latch <;>
      simp [State.press, State.putKey, State.answer, State.setLatch, latchAfterKey, hw, hl]

/-- Rule R353. -/
theorem hostSetKey_of_gt {k : Nat} (h : 15 < k) (pressed : Bool) (s : State) :
    hostSetKey k pressed s = .refused (.keyIndexOutOfRange k) := dif_neg (by omega)

/-- `setKey` is a write of a key of the keypad, or it is refused. -/
theorem hostSetKey_cases (k : Nat) (pressed : Bool) (s : State) :
    (∃ key : Key, hostSetKey k pressed s = .next { s with
      keys := s.keys.set key.val pressed, latch := latchAfterKey s key pressed, result := .nothing }) ∨
    (15 < k ∧ hostSetKey k pressed s = .refused (.keyIndexOutOfRange k)) := by
  by_cases h : k < 16
  · exact .inl ⟨⟨k, h⟩, hostSetKey_eq ⟨k, h⟩ pressed s⟩
  · exact .inr ⟨by omega, hostSetKey_of_gt (by omega) pressed s⟩

/-- Everything a cycle can do: answer and nothing else, when halted or waiting; end the wait; halt beyond memory; pass over
an unmapped word; execute an instruction. -/
theorem cycle_next_cases (h : cycle s = .next t) :
    (∃ r, t = s.answer r) ∨
    (∃ x k, s.halt = none ∧ t = s.completeWait x k) ∨
    (s.halt = none ∧ s.wait = none ∧ 0x0FFE < s.pc.toNat ∧ t = s.raise (.pcOutOfRange s.pc)) ∨
    (s.halt = none ∧ s.wait = none ∧ s.pc.toNat ≤ 0x0FFE ∧ ∃ r, t = (s.setPc (s.pc + 2)).answer r) ∨
    (s.halt = none ∧ s.wait = none ∧ s.pc.toNat ≤ 0x0FFE ∧ ∃ i, t = s.advance.after i) := by
  obtain ⟨c, hh, e⟩ | ⟨x, hh, hw, hl, e⟩ | ⟨x, k, hh, hw, hl, e⟩ | ⟨hh, hw, e⟩ := cycle_cases s <;>
    rw [e] at h
  · exact .inl ⟨_, (Host.Outcome.next.inj h).symm⟩
  · exact .inl ⟨_, (Host.Outcome.next.inj h).symm⟩
  · exact .inr (.inl ⟨x, k, hh, (Host.Outcome.next.inj h).symm⟩)
  · obtain ⟨hpc, e⟩ | ⟨hpc, op, e⟩ | ⟨hpc, i, e⟩ := fetchExecute_cases s <;> rw [e] at h
    · exact .inr (.inr (.inl ⟨hh, hw, hpc, (Host.Outcome.next.inj h).symm⟩))
    · rw [execUnmapped_advance] at h
      exact .inr (.inr (.inr (.inl ⟨hh, hw, hpc, _, (Host.Outcome.next.inj h).symm⟩)))
    · exact .inr (.inr (.inr (.inr ⟨hh, hw, hpc, i, eq_after_of_exec h⟩)))

/-! ## Single cycles -/

/-- Settles O8: the halted branch of the cycle only answers. -/
theorem haltedCycleChangesNothing : Obligations.HaltedCycleChangesNothing := by
  intro s c hc hh
  calc step s = cycle s.dropCall := step_of_cycle hc
    _ = .next (s.dropCall.answer (.status (.halted c))) := cycle_of_halted (s := s.dropCall) hh

/-- A key's index fits in a byte. -/
theorem State.toNat_reg_completeWait (s : State) (x r : Reg) (k : Key) :
    ((s.completeWait x k).reg r).toNat = if r = x then k.val else (s.reg r).toNat := by
  have hk : (BitVec.ofNat 8 k.val).toNat = k.val := Nat.mod_eq_of_lt (by omega)
  have hreg : (s.completeWait x k).reg r = (s.setReg x (BitVec.ofNat 8 k.val)).reg r := rfl
  rw [hreg, State.reg_setReg, apply_ite BitVec.toNat, hk]

/-- Rule R142. -/
theorem step_of_latched {x : Reg} {k : Key} (hc : s.nextCall = .cycle) (hh : s.halt = none) (hw : s.wait = some x)
    (hl : s.latch = some k) : step s = .next (s.dropCall.completeWait x k) :=
  (step_of_cycle hc).trans (cycle_of_latched (s := s.dropCall) hh hw hl)

/-- Settles O10: the cycle that ends a wait writes Vx, WAIT, LATCH and the status. -/
theorem latchedKeyEndsTheWait : Obligations.LatchedKeyEndsTheWait := fun s x k hc hh hw hl =>
  ⟨_, step_of_latched hc hh hw hl, rfl, fun r => s.toNat_reg_completeWait x r k⟩

/-- Settles O11: the fetch is refused and its status halts the machine. -/
theorem fetchBeyondMemoryHalts : Obligations.FetchBeyondMemoryHalts := by
  intro s hc hh hw hpc
  have hrange : ¬ s.dropCall.pc.toNat + 1 < 4096 := by rw [State.dropCall_pc]; omega
  calc step s = fetchExecute s.dropCall := step_of_idle hc hh hw
    _ = .next (s.dropCall.raise (.pcOutOfRange s.pc)) := fetchExecute_of_outOfRange hrange

/-! ## Single host operations -/

/-- Settles O47: `snapshot()` only answers, with the block as it is. -/
theorem snapshotCopiesTheBlock : Obligations.SnapshotCopiesTheBlock := fun _ => step_of_snapshot

/-- Settles O13: every operation has an equation that answers a next state, but for `setKey` beyond the keypad. -/
theorem onlyAKeyIndexOutOfRangeIsRefused : Obligations.OnlyAKeyIndexOutOfRangeIsRefused := by
  intro s
  refine ⟨fun k p hcall hk => (step_of_nextCall hcall).trans (hostSetKey_of_gt hk p _), fun hkeys => ?_⟩
  cases hcall : s.nextCall <;> rw [step_of_nextCall hcall]
  case cycle => exact cycleAlwaysReturns s.dropCall
  case setKey k p =>
    obtain ⟨key, e⟩ | ⟨hk, -⟩ := hostSetKey_cases k p s.dropCall
    · exact ⟨_, e⟩
    · have := hkeys k p hcall
      omega
  all_goals exact ⟨_, rfl⟩

theorem latchAfterKey_eq (s : State) (k : Key) (pressed : Bool) : latchAfterKey s k pressed =
    if pressed = true ∧ (∃ x, s.wait = some x) ∧ s.latch = none then some k else s.latch := by
  simp only [latchAfterKey, Bool.and_eq_true, Option.isSome_iff_exists, Option.isNone_iff_eq_none]

/-- Settles O42: `setKey` for a key of the keypad. -/
theorem setKeyWritesAndLatches : Obligations.SetKeyWritesAndLatches := by
  intro s k pressed hcall
  exact ⟨_, (step_of_nextCall hcall).trans (hostSetKey_eq k pressed s.dropCall), rfl, fun l => s.key_putKey k l pressed,
    latchAfterKey_eq s k pressed⟩

/-! ## Reset and load -/

theorem State.readByte_of_mem_nil (h : s.mem = []) (a : Addr) : s.readByte a = resetImage s.params.font a.val := by
  simp only [State.readByte, h]
  rfl

theorem State.reset_reg (r : Reg) : State.reset.reg r = 0 := Vector.getElem_replicate _

theorem State.reset_entry (k : Fin 16) : State.reset.entry k = 0 := Vector.getElem_replicate _

theorem State.reset_key (k : Key) : State.reset.key k = false := Vector.getElem_replicate _

theorem State.reset_cell (c : Fin 64) (r : Fin 32) : State.reset.cell c r = false := Grid.cell_clear c r

/-- Settles O43: after the reset step every element of the block is that of `State.reset`. -/
theorem resetLeavesTheResetValues : Obligations.ResetLeavesTheResetValues := fun _ hcall =>
  ⟨_, step_of_reset hcall, State.readByte_of_mem_nil rfl, State.reset_reg, rfl, rfl, rfl, State.reset_entry, rfl, rfl,
    State.reset_cell, State.reset_key, rfl, rfl, rfl, rfl, rfl, rfl, rfl⟩

/-- A byte after a load on a memory just reset: the font lies below the program. -/
theorem memRead_memLoad_reset (font : FontTable) (bytes : List Byte) (a : Nat) :
    memRead (resetImage font) (memLoad (resetImage font) [] 0x200 bytes) a =
      if h : a < 80 then font[a]
      else if 0x200 ≤ a ∧ a < 0x200 + bytes.length then bytes.getD (a - 0x200) 0
      else 0 := by
  rw [memRead_memLoad]
  by_cases hfont : a < 80
  · rw [if_neg (by omega), dif_pos hfont]
    exact dif_pos hfont
  · have himage : memRead (resetImage font) [] a = 0 := dif_neg hfont
    rw [dif_neg hfont, himage]

/-- Settles O44: a ROM that fits is put at 0x200 of a memory that is just reset. -/
theorem loadProgramPlacesTheBytes : Obligations.LoadProgramPlacesTheBytes := by
  intro s bytes hcall hlen
  have hfits : ¬ maxRom < bytes.length := by rw [maxRom_eq]; omega
  exact ⟨_, (step_of_nextCall hcall).trans (congrArg Host.Outcome.next (hostLoadProgram_of_fits hfits s.dropCall)), rfl,
    fun a => memRead_memLoad_reset s.params.font bytes a.val⟩

/-! ## Runs of several operations -/

theorem run_succ_of_next {M : Host.Core} {p q : M.State} (h : M.step p = .next q) (n : Nat) :
    M.run (n + 1) p = M.run n q := by
  rw [Host.Core.run, h]

/-- A run of the machine, one step taken. -/
theorem run_succ_of_step (h : step s = .next t) (n : Nat) :
    Host.Core.run Sys2Proof.core (n + 1) s = Host.Core.run Sys2Proof.core n t :=
  run_succ_of_next (M := Sys2Proof.core) h n

theorem nextCall_of_schedule {c : HostCall} {cs : List HostCall} (h : s.schedule = c :: cs) : s.nextCall = c := by
  rw [State.nextCall, h]
  rfl

theorem toNat_ticked_eq_sub (b : Byte) : (ticked b).toNat = b.toNat - 1 := by
  rw [toNat_ticked]
  split <;> omega

/-- Settles O41: each tick lowers both timers by one, and a truncated difference can be taken one at a time. -/
theorem ticksCountDownToZero : Obligations.TicksCountDownToZero := by
  intro s n
  induction n generalizing s with
  | zero =>
    intro (hs : s.schedule = [])
    have hframe : s = { s with schedule := [] } := by rw [← hs]
    exact ⟨s, rfl, hframe, rfl, rfl⟩
  | succ n ih =>
    intro (hs : s.schedule = .tick :: List.replicate n .tick)
    have hstep := step_of_tick (nextCall_of_schedule hs)
    rw [hs, List.tail_cons] at hstep
    obtain ⟨t, hrun, hframe, hdt, hst⟩ := ih
      { s with dt := ticked s.dt, st := ticked s.st, schedule := List.replicate n .tick, result := .nothing } rfl
    refine ⟨t, (run_succ_of_step hstep n).trans hrun, hframe, hdt.trans ?_, hst.trans ?_⟩
    · rw [toNat_ticked_eq_sub, Nat.sub_sub, Nat.add_comm]
    · rw [toNat_ticked_eq_sub, Nat.sub_sub, Nat.add_comm]

section
variable {x : Reg} {cs : List HostCall}

/-- A scheduled cycle during a wait with nothing latched. -/
theorem step_of_waiting (hh : s.halt = none) (hw : s.wait = some x) (hl : s.latch = none)
    (hs : s.schedule = .cycle :: cs) : step s = .next { s with schedule := cs, result := .status .waiting } := by
  have h := waitingCycleChangesNothing s x (nextCall_of_schedule hs) hh hw hl
  rwa [hs] at h

/-- Scheduled cycles during a wait only answer, and the run goes on from there. -/
theorem run_of_waiting (m k : Nat) (hh : s.halt = none) (hw : s.wait = some x) (hl : s.latch = none)
    (hs : s.schedule = List.replicate m .cycle ++ cs) : Host.Core.run Sys2Proof.core (k + m) s =
      Host.Core.run Sys2Proof.core k
        { s with schedule := cs, result := if m = 0 then s.result else .status .waiting } := by
  induction m generalizing s with
  | zero =>
    rw [List.replicate_zero, List.nil_append] at hs
    rw [← hs]
    rfl
  | succ m ih =>
    have hstep := step_of_waiting hh hw hl (hs : s.schedule = .cycle :: (List.replicate m .cycle ++ cs))
    have hrest := ih (s := { s with schedule := List.replicate m .cycle ++ cs, result := .status .waiting }) hh hw hl rfl
    rw [ite_self] at hrest
    rw [if_neg (Nat.succ_ne_zero m)]
    exact (run_succ_of_step hstep (k + m)).trans hrest

end

/-- A press during a wait is latched, and the next cycle ends the wait. -/
theorem run_press_and_cycle {x : Reg} {k : Key} (hh : s.halt = none) (hw : s.wait = some x) (hl : s.latch = none)
    (hs : s.schedule = [.setKey k.val true, .cycle]) : Host.Core.run Sys2Proof.core 2 s =
      .next (State.completeWait { s with keys := s.keys.set k.val true, schedule := [], latch := some k } x k) := by
  have hpress : step s = .next { s with
      keys := s.keys.set k.val true, latch := some k, schedule := [.cycle], result := .nothing } := by
    have hlatch : latchAfterKey s k true = some k := by simp [latchAfterKey, hw, hl]
    have h := (step_of_nextCall (nextCall_of_schedule hs)).trans (hostSetKey_eq k true s.dropCall)
    rw [← hlatch]
    rw [State.dropCall_schedule, hs] at h
    exact h
  refine (run_succ_of_step hpress 1).trans ?_
  exact run_succ_of_step (step_of_latched rfl (by exact hh) (by exact hw) rfl) 0

/-- Settles O39: the waiting cycles only answer; then the press is latched and ends the wait. -/
theorem keyWaitEndsWithThePressedKey : Obligations.KeyWaitEndsWithThePressedKey := by
  intro s x k n hh hw hl hs
  refine ⟨fun m hpos hm => ?wait, ?done⟩
  case wait =>
    have hsplit : s.schedule = List.replicate m .cycle ++ s.schedule.drop m := by
      rw [hs, List.drop_append_of_le_length (by simpa using hm), List.drop_replicate, ← List.append_assoc,
        List.replicate_append_replicate, Nat.add_sub_cancel' hm]
    have h := run_of_waiting m 0 hh hw hl hsplit
    rw [if_neg (Nat.ne_of_gt hpos), Nat.zero_add] at h
    exact h
  case done =>
    rw [Nat.add_comm]
    refine ⟨_, (run_of_waiting n 2 hh hw hl hs).trans (run_press_and_cycle hh hw hl rfl), ?frame, ?reg, ?key⟩
    case frame => rw [State.completeWait, ← hl]; rfl
    case reg => exact fun r => State.toNat_reg_completeWait _ x r k
    case key => exact fun l => s.key_putKey k l true

end Sys2Proof.Machine
end

section
/-! What every step keeps: the invariant, the parameters and a protected font, a halt, and what no host operation but its
own writes (10_state.md sections 2 and 4, 20_memory.md section 1, 40_cycle.md section 2, 60_exceptions.md section 1). -/

namespace Sys2Proof.Machine

variable {i : Instr} {s t : State}

/-! ## The invariant over the fields an instruction leaves -/

theorem memWf_memAfter (h : memWf s.image s.mem = true) : memWf s.image (memAfter s i).mem = true := by
  cases i
  case ldB x => simpa [memAfter] using State.writeBytes_memWf h (s.span 3) (decimalDigits (s.reg x))
  case storeRegs x => simpa [memAfter] using State.writeBytes_memWf h (s.span (x.val + 1)) ((regsUpTo x).map s.reg)
  all_goals exact h

theorem toNat_glyphAddress (v : Byte) : (glyphAddress v).toNat = 5 * (v.toNat % 16) :=
  Nat.mod_eq_of_lt (by omega)

/-- FX1E reduces mod 4096, FX29 points into the font, and ANNN has twelve bits (10_state.md rule R34). -/
theorem indexAfter_le (h : s.i.toNat ≤ 0x0FFF) : (indexAfter s i).toNat ≤ 0x0FFF := by
  cases i
  case ldI nnn => exact (toNat_zext16_address nnn).trans_le (by omega)
  case addI x => simp only [indexAfter, BitVec.toNat_ofNat]; omega
  case ldF x => exact (toNat_glyphAddress _).trans_le (by omega)
  all_goals exact h

theorem toNat_pc_add_two (h : s.pc.toNat ≤ 0x1000) : (s.pc + 2).toNat ≤ 0x1002 := by
  bv_omega

/-- The farthest target is BNNN's, 0xFFF + 0xFF (10_state.md rule R36). -/
theorem pcAfter_le (hpc : s.pc.toNat ≤ 0x1000) (hstack : ∀ k, (s.entry k).toNat ≤ 0x1000) :
    (pcAfter s i).toNat ≤ maxPc := by
  have hskip := toNat_pc_add_two hpc
  have hstay : s.pc.toNat ≤ maxPc := by unfold maxPc; omega
  cases hi : pcEffect i
  case goOn => rwa [pcAfter_of_goOn hi]
  case skip =>
    obtain e | e := pcAfter_of_skip (s := s) hi <;> rw [e]
    · exact hstay
    · exact hskip.trans (by decide)
  case jump =>
    cases i
    case jp nnn => exact (toNat_zext16_address nnn).trans_le (by unfold maxPc; omega)
    case jpV0 nnn => exact (toNat_jpV0_target nnn _).trans_le (by unfold maxPc; omega)
    case call nnn =>
      simp only [pcAfter]
      split
      · exact (toNat_zext16_address nnn).trans_le (by unfold maxPc; omega)
      · exact hstay
    case ret =>
      simp only [pcAfter]
      split
      · exact (hstack ⟨s.sp.val - 1, by omega⟩).trans (by decide)
      · exact hstay
    all_goals cases hi

/-- A call stores PC, which is past the call. -/
theorem entry_after_le (hpc : s.pc.toNat ≤ 0x1000) (hstack : ∀ k, (s.entry k).toNat ≤ 0x1000) (k : Fin 16) :
    ((s.after i).entry k).toNat ≤ 0x1000 := by
  cases i
  case call nnn =>
    simp only [State.entry, State.after, stackAfter, Vector.getElem_setIfInBounds]
    split
    · exact hpc
    · exact hstack k
  all_goals exact hstack k

/-- A halt is raised at a stack limit only, and there PC and SP stay. -/
theorem causeFits_after (hh : s.halt = none) (c : Cause) (hc : haltAfter s i = some c) :
    causeFits (spAfter s i) (pcAfter s i) c = true := by
  by_cases hlimit : AtStackLimit i s
  · obtain ⟨⟨nnn, rfl⟩, hsp⟩ | ⟨rfl, hsp⟩ := hlimit
    · have hfull : ¬ s.sp.val < 16 := by omega
      obtain rfl : .stackOverflow s.instrAddr _ = c := Option.some.inj ((if_neg hfull).symm.trans hc)
      simp [causeFits, spAfter, pcAfter, hsp, State.instrAddr]
    · have hempty : ¬ 0 < s.sp.val := by omega
      obtain rfl : .stackUnderflow s.instrAddr _ = c := Option.some.inj ((if_neg hempty).symm.trans hc)
      simp [causeFits, spAfter, pcAfter, hsp, State.instrAddr]
  · rw [haltAfter_of_not_atStackLimit hlimit, hh] at hc
    cases hc

/-- FX0A begins a wait and drops a press; nothing else writes LATCH. -/
theorem latchAfter_eq_none (hl : s.latch = none) : latchAfter s i = none := by
  cases i
  case ldVxK x => rfl
  all_goals exact hl

/-- FX0A does not halt, and what halts does not wait. -/
theorem waitAfter_eq_none_of_halted (hh : s.halt = none) (hw : s.wait = none) (h : (haltAfter s i).isSome = true) :
    waitAfter s i = none := by
  cases i
  case ldVxK x => simp [haltAfter, hh] at h
  all_goals exact hw

/-- Every instruction of a machine that runs keeps the invariant. -/
theorem State.Inv.after (h : s.Inv) (hh : s.halt = none) (hw : s.wait = none) (hpc : s.pc.toNat ≤ 0x1000) :
    (s.after i).Inv := by
  have hlatch : s.latch = none := by
    cases hl : s.latch with
    | none => rfl
    | some k => simpa [hl, hw] using h.latch
  exact
    { memory := memWf_memAfter h.memory
      index := indexAfter_le h.index
      pc := pcAfter_le hpc h.stack
      stack := entry_after_le hpc h.stack
      latch := fun hsome => by simp [State.after, latchAfter_eq_none hlatch] at hsome
      halted := waitAfter_eq_none_of_halted hh hw
      cause := causeFits_after hh }

/-! ## The invariant over the other steps -/

/-- What an operation returns is no part of the invariant, and neither is the schedule. -/
theorem State.Inv.answer (h : s.Inv) (r : Result) : (s.answer r).Inv :=
  ⟨h.memory, h.index, h.pc, h.stack, h.latch, h.halted, h.cause⟩

theorem State.Inv.dropCall (h : s.Inv) : s.dropCall.Inv :=
  ⟨h.memory, h.index, h.pc, h.stack, h.latch, h.halted, h.cause⟩

theorem State.Inv.tick (h : s.Inv) : (hostTick s).Inv :=
  ⟨h.memory, h.index, h.pc, h.stack, h.latch, h.halted, h.cause⟩

theorem State.Inv.completeWait (h : s.Inv) (x : Reg) (k : Key) : (s.completeWait x k).Inv :=
  ⟨h.memory, h.index, h.pc, h.stack, nofun, fun _ => rfl, h.cause⟩

/-- Setting PC on a machine that is not halted. -/
theorem State.Inv.setPc (h : s.Inv) (hh : s.halt = none) {w : Word} (hw : w.toNat ≤ maxPc) : (s.setPc w).Inv :=
  ⟨h.memory, h.index, hw, h.stack, h.latch, h.halted, fun c hc => by rw [State.setPc_halt, hh] at hc; cases hc⟩

theorem State.Inv.raisePcOutOfRange (h : s.Inv) (hw : s.wait = none) (hpc : 0x0FFE < s.pc.toNat) :
    (s.raise (.pcOutOfRange s.pc)).Inv :=
  ⟨h.memory, h.index, h.pc, h.stack, h.latch, fun _ => hw, fun c hc => by cases hc; simpa [causeFits] using hpc⟩

/-- LATCH is set during a wait only. -/
theorem State.Inv.setKey (h : s.Inv) (k : Key) (pressed : Bool) : State.Inv { s with
    keys := s.keys.set k.val pressed, latch := latchAfterKey s k pressed, result := .nothing } := by
  refine ⟨h.memory, h.index, h.pc, h.stack, fun hsome => ?_, h.halted, h.cause⟩
  change (latchAfterKey s k pressed).isSome = true at hsome
  unfold latchAfterKey at hsome
  split at hsome
  next hcond =>
    simp only [Bool.and_eq_true] at hcond
    exact hcond.2.1
  next => exact h.latch hsome

theorem State.reset_inv : State.reset.Inv :=
  ⟨rfl, by decide, by decide, by decide, nofun, fun _ => rfl, nofun⟩

/-- A machine just reset with a memory in canonical form. -/
theorem State.Inv.reset_with_mem {mem : List Host.Cell} {params : Params} {result : Result} {draws : Nat}
    {schedule : List HostCall} (h : memWf (resetImage params.font) mem = true) : State.Inv { State.reset with
      mem := mem, params := params, result := result, draws := draws, schedule := schedule } :=
  have hreset := State.reset_inv
  ⟨h, hreset.index, hreset.pc, hreset.stack, hreset.latch, hreset.halted, hreset.cause⟩

theorem State.Inv.loadProgram (h : s.Inv) (bytes : List Byte) : (hostLoadProgram bytes s).Inv := by
  by_cases hlen : maxRom < bytes.length
  · rw [hostLoadProgram_of_tooLarge hlen]
    exact h.answer _
  · rw [hostLoadProgram_of_fits hlen]
    rw [maxRom_eq] at hlen
    exact State.Inv.reset_with_mem (memWf_memLoad bytes memWf_nil (by omega))

theorem State.Inv.cycle (h : s.Inv) (hc : cycle s = .next t) : t.Inv := by
  obtain ⟨r, rfl⟩ | ⟨x, k, -, rfl⟩ | ⟨-, hw, hpc, rfl⟩ | ⟨hh, -, hpc, r, rfl⟩ | ⟨hh, hw, hpc, i, rfl⟩ :=
    cycle_next_cases hc
  · exact h.answer r
  · exact h.completeWait x k
  · exact h.raisePcOutOfRange hw hpc
  · exact (h.setPc hh ((toNat_pc_add_two (by omega)).trans (by decide))).answer r
  · have hnext : (s.pc + 2).toNat ≤ 0x1000 := by bv_omega
    have hadvance : s.advance.Inv := (h.setPc hh (hnext.trans (by decide))).answer _
    exact hadvance.after hh hw hnext

/-- Settles O54: one case per host operation; the cycle's cases are those of `cycle_next_cases`. -/
theorem everyStepKeepsTheInvariant : Obligations.EveryStepKeepsTheInvariant := by
  intro s t hinv hstep
  have h := hinv.dropCall
  cases hcall : s.nextCall <;> rw [step_of_nextCall hcall] at hstep
  case reset => cases hstep; exact State.Inv.reset_with_mem memWf_nil
  case loadProgram bytes => cases hstep; exact h.loadProgram bytes
  case cycle => exact h.cycle hstep
  case tick => cases hstep; exact h.tick
  case setKey k p =>
    obtain ⟨key, e⟩ | ⟨-, e⟩ := hostSetKey_cases k p s.dropCall <;> cases e.symm.trans hstep
    exact h.setKey key p
  case getFramebuffer => cases hstep; exact h.answer _
  case isSoundActive => cases hstep; exact h.answer _
  case snapshot => cases hstep; exact h.answer _

/-! ## The parameters and the font (20_memory.md rules R72, R79) -/

/-- An operation that keeps the parameters and every byte that may not be written keeps the font. -/
theorem State.FontIntact.of_kept (h : s.FontIntact) (hp : t.params = s.params)
    (hread : ∀ a, s.writable a = false → t.readByte a = s.readByte a) : t.FontIntact := by
  intro hprotected a ha
  rw [hp] at hprotected ⊢
  rw [hread a (State.writable_eq_false_iff.mpr ⟨hprotected, by omega⟩)]
  exact h hprotected a ha

theorem State.fontIntact_of_mem_nil (h : s.mem = []) : s.FontIntact := fun _ a _ => State.readByte_of_mem_nil h a

/-- A program lies above the font. -/
theorem State.fontIntact_hostLoadProgram (h : s.FontIntact) (bytes : List Byte) :
    (hostLoadProgram bytes s).FontIntact := by
  by_cases hlen : maxRom < bytes.length
  · rw [hostLoadProgram_of_tooLarge hlen]
    exact h.of_kept rfl fun _ _ => rfl
  · rw [hostLoadProgram_of_fits hlen]
    intro _ a ha
    refine (memRead_memLoad_reset s.params.font bytes a.val).trans ?_
    rw [dif_pos ha]
    exact (dif_pos ha).symm

theorem hostLoadProgram_params (bytes : List Byte) (s : State) : (hostLoadProgram bytes s).params = s.params := by
  unfold hostLoadProgram
  split <;> rfl

/-- A cycle keeps the parameters, and every byte that may not be written. -/
theorem cycle_params_and_protected (h : cycle s = .next t) :
    t.params = s.params ∧ ∀ a, s.writable a = false → t.readByte a = s.readByte a := by
  obtain ⟨r, rfl⟩ | ⟨x, k, -, rfl⟩ | ⟨-, -, -, rfl⟩ | ⟨-, -, -, r, rfl⟩ | ⟨-, -, -, i, rfl⟩ := cycle_next_cases h
  · exact ⟨rfl, fun _ _ => rfl⟩
  · exact ⟨rfl, fun _ _ => rfl⟩
  · exact ⟨rfl, fun _ _ => rfl⟩
  · exact ⟨rfl, fun _ _ => rfl⟩
  · refine ⟨rfl, fun a ha => ?_⟩
    rw [State.readByte_after]
    exact readByte_memAfter_of_protected (s := s.advance) ha

/-- Settles O56: a reset leaves the font, a load writes above it, a cycle does not write a protected byte, and no other
operation writes memory. -/
theorem protectedFontIsNeverMutated : Obligations.ProtectedFontIsNeverMutated := by
  intro s t hstep
  cases hcall : s.nextCall <;> rw [step_of_nextCall hcall] at hstep
  case reset => cases hstep; exact ⟨rfl, fun _ => State.fontIntact_of_mem_nil rfl⟩
  case loadProgram bytes =>
    cases hstep
    exact ⟨hostLoadProgram_params bytes s.dropCall,
      fun h => State.fontIntact_hostLoadProgram (s := s.dropCall) (h.of_kept rfl fun _ _ => rfl) bytes⟩
  case cycle =>
    obtain ⟨hp, hread⟩ := cycle_params_and_protected hstep
    exact ⟨hp, fun h => h.of_kept hp hread⟩
  case setKey k p =>
    obtain ⟨key, e⟩ | ⟨-, e⟩ := hostSetKey_cases k p s.dropCall <;> cases e.symm.trans hstep
    exact ⟨rfl, fun h => h.of_kept rfl fun _ _ => rfl⟩
  all_goals cases hstep; exact ⟨rfl, fun h => h.of_kept rfl fun _ _ => rfl⟩

/-- Settles O55: `State.reset` field by field; its memory lists nothing, so the font region reads as the image. -/
theorem resetMeetsTheInvariant : Obligations.ResetMeetsTheInvariant :=
  ⟨State.reset_inv, State.fontIntact_of_mem_nil rfl, fun a h => (State.readByte_of_mem_nil rfl a).trans (dif_pos h)⟩

/-! ## What the operations write (40_cycle.md rule R151; 60_exceptions.md rule R333) -/

/-- No instruction writes the keypad, and the rest of the cycle does not either. -/
theorem cycle_keys (h : cycle s = .next t) : t.keys = s.keys := by
  obtain ⟨r, rfl⟩ | ⟨x, k, -, rfl⟩ | ⟨-, -, -, rfl⟩ | ⟨-, -, -, r, rfl⟩ | ⟨-, -, -, i, rfl⟩ := cycle_next_cases h <;> rfl

/-- Settles O58: beside a cycle, which leaves the keypad, each operation is one update of the fields that are its own. -/
theorem whatEachHostOperationMayChange : Obligations.WhatEachHostOperationMayChange := by
  intro s t hstep hreset hload
  cases hcall : s.nextCall <;> rw [step_of_nextCall hcall] at hstep
  case reset => exact absurd hcall hreset
  case loadProgram bytes => exact absurd hcall (hload bytes)
  case cycle => exact ⟨absurd rfl, absurd rfl, fun _ => cycle_keys (s := s.dropCall) hstep, absurd rfl⟩
  case tick =>
    cases hstep
    exact ⟨fun _ => ⟨rfl, rfl, rfl, rfl, rfl, rfl, rfl, rfl, rfl⟩, fun _ => absurd rfl, fun _ => rfl, fun _ _ => rfl⟩
  case setKey k p =>
    obtain ⟨key, e⟩ | ⟨-, e⟩ := hostSetKey_cases k p s.dropCall <;> cases e.symm.trans hstep
    exact ⟨fun _ => ⟨rfl, rfl, rfl, rfl, rfl, rfl, rfl, rfl, rfl⟩, fun _ _ => ⟨rfl, rfl⟩, fun hk => absurd rfl (hk k p),
      fun _ hk => absurd rfl (hk k p)⟩
  all_goals
    cases hstep
    exact ⟨fun _ => ⟨rfl, rfl, rfl, rfl, rfl, rfl, rfl, rfl, rfl⟩, fun _ _ => ⟨rfl, rfl⟩, fun _ => rfl, fun _ _ => rfl⟩

/-- Settles O57: a halted cycle only answers, and no operation but a cycle writes these fields (O58). -/
theorem haltPersistsUntilResetOrLoad : Obligations.HaltPersistsUntilResetOrLoad := by
  intro s t c hh hstep hreset hload
  by_cases hcall : s.nextCall = .cycle
  · cases (haltedCycleChangesNothing s c hcall hh).symm.trans hstep
    exact ⟨hh, rfl, rfl, rfl, rfl, rfl, rfl, rfl⟩
  · obtain ⟨hblock, -⟩ := whatEachHostOperationMayChange s t hstep hreset hload
    obtain ⟨hv, hi, hpc, hsp, hstack, hfb, -, hhalt, hmem⟩ := hblock hcall
    exact ⟨hhalt.trans hh, hpc, hv, hi, hsp, hstack, hfb, hmem⟩

end Sys2Proof.Machine
end

section
/-! What the instructions on the call stack do, BNNN, the key skips and FX0A (42_flow.md, 45_keys_timers.md). -/

namespace Sys2Proof.Machine

/-- The word of a call, as a number of its address. -/
theorem eq_encode_call {op : Word} {nnn : BitVec 12} (h : op.toNat = 0x2000 + nnn.toNat) : op = encode (.call nnn) :=
  BitVec.eq_of_toNat_eq (h.trans (toNat_wordA 0x2 nnn).symm)

/-- A return with an entry on the stack (rule R192). -/
theorem exec_ret_of_pos {s : State} (h : 0 < s.sp.val) : exec .ret s =
    .next { s with pc := s.entry ⟨s.sp.val - 1, by omega⟩, sp := ⟨s.sp.val - 1, by omega⟩ } := by
  obtain ⟨_, e⟩ | ⟨hempty, -⟩ := execRet_cases s
  · exact e
  · omega

/-- A call with room on the stack (rule R194). -/
theorem exec_call_of_lt (nnn : BitVec 12) {s : State} (h : s.sp.val < 16) : exec (.call nnn) s =
    .next { s with pc := zext16 nnn, stack := s.stack.set s.sp.val s.pc, sp := ⟨s.sp.val + 1, by omega⟩ } := by
  obtain ⟨_, e⟩ | ⟨hfull, -⟩ := execCall_cases nnn s
  · exact e
  · omega

/-- The entries after a push. -/
theorem getElem_stack_set (s : State) (h : s.sp.val < 16) (k : Fin 16) :
    (s.stack.set s.sp.val s.pc)[k.val] = if k.val = s.sp.val then s.pc else s.entry k := by
  rw [Vector.getElem_set]
  simp only [eq_comm, State.entry]

/-- Settles O17: with an entry on the stack, a return pops it. -/
theorem returnPopsThePc : Obligations.ReturnPopsThePc := fun _ h => ⟨_, exec_ret_of_pos h, rfl, rfl, rfl⟩

/-- Settles O18: with nothing to pop, and with no room to push, the status is raised, and it is fatal. -/
theorem stackLimitsHalt : Obligations.StackLimitsHalt := by
  refine ⟨fun s hsp => ?ret, fun s nnn op hsp hop => ?call⟩
  case ret =>
    obtain ⟨hpos, -⟩ | ⟨-, e⟩ := execRet_cases s
    · omega
    · exact e
  case call =>
    rw [eq_encode_call hop]
    obtain ⟨hroom, -⟩ | ⟨-, e⟩ := execCall_cases nnn s
    · omega
    · exact e

/-- Settles O19: with room on the stack, a call pushes. -/
theorem callPushesThePc : Obligations.CallPushesThePc := fun s nnn h =>
  ⟨_, exec_call_of_lt nnn h, rfl, rfl, toNat_zext16_address nnn, getElem_stack_set s h⟩

/-- Settles O20: the return pops the entry that the call pushed. -/
theorem returnAfterCallRestoresPc : Obligations.ReturnAfterCallRestoresPc := by
  intro s nnn h
  have hpc : (s.stack.set s.sp.val s.pc)[s.sp.val] = s.pc := Vector.getElem_set_self h
  exact ⟨_, _, exec_call_of_lt nnn h, exec_ret_of_pos (Nat.succ_pos _), hpc, rfl,
    congrArg (fun pc => { s with pc := pc, stack := s.stack.set s.sp.val s.pc }) hpc, getElem_stack_set s h⟩

/-- Settles O22: BNNN only sets PC, to a sum that sixteen bits hold. -/
theorem computedJumpAddsV0 : Obligations.ComputedJumpAddsV0 := fun s nnn =>
  ⟨s.setPc (zext16 nnn + zext16 (s.reg Reg.v0)), rfl, s.setPc_frame _, toNat_jpV0_target nnn (s.reg Reg.v0)⟩

/-- Settles O36: each of the two is a skip on the key of the low nibble, or on its being up. -/
theorem keySkips : Obligations.KeySkips := by
  intro s x k hk
  rw [eq_lowNibble hk]
  exact ⟨exec_eq_after (.skp x) s, exec_eq_after (.sknp x) s⟩

/-- Settles O38: WAIT and LATCH are all that FX0A writes. -/
theorem keyWaitBegins : Obligations.KeyWaitBegins := fun s x => exec_eq_after (.ldVxK x) s

end Sys2Proof.Machine
end

section
/-! What the instructions with a flag do, CXNN, FX1E and FX29 (43_alu.md sections 2 and 3, 44_index_memory.md section 1). -/

namespace Sys2Proof.Machine

/-! ## The results and the flags as numbers -/

/-- A register after a result and a flag. -/
theorem State.toNat_reg_setRegFlag (s : State) (x r : Reg) (p : Byte × Bool) : ((s.setRegFlag x p).reg r).toNat =
    if r = 15 then p.2.toNat else if r = x then p.1.toNat else (s.reg r).toNat := by
  have hflag : (if p.2 = true then 1 else 0 : Byte).toNat = p.2.toNat := by cases p.2 <;> rfl
  rw [State.reg_setRegFlag, apply_ite BitVec.toNat, hflag, apply_ite BitVec.toNat]

theorem toNat_decide (c : Prop) [Decidable c] : (decide c).toNat = if c then 1 else 0 := by
  by_cases h : c <;> simp [h]

theorem toNat_addCarry_snd (a b : Byte) : (addCarry a b).2.toNat = if 255 < a.toNat + b.toNat then 1 else 0 :=
  toNat_decide _

theorem toNat_subNoBorrow_fst (a b : Byte) : (subNoBorrow a b).1.toNat = (a.toNat + 256 - b.toNat) % 256 := by
  simp only [subNoBorrow, BitVec.toNat_ofInt]
  omega

theorem toNat_subNoBorrow_snd (a b : Byte) : (subNoBorrow a b).2.toNat = if b.toNat ≤ a.toNat then 1 else 0 :=
  toNat_decide _

theorem toNat_shiftRightOut_fst (a : Byte) : (shiftRightOut a).1.toNat = a.toNat / 2 := by
  simp only [shiftRightOut, BitVec.toNat_ushiftRight, Nat.shiftRight_one]

theorem toNat_shiftRightOut_snd (a : Byte) : (shiftRightOut a).2.toNat = a.toNat % 2 := by
  simp only [shiftRightOut, BitVec.getLsbD, Nat.testBit_zero, toNat_decide]
  split <;> omega

theorem toNat_shiftLeftOut_fst (a : Byte) : (shiftLeftOut a).1.toNat = a.toNat * 2 % 256 := by
  simp only [shiftLeftOut, BitVec.toNat_shiftLeft, Nat.shiftLeft_eq, pow_one, Nat.reducePow]

/-- Bit 7 is set from 128 up. -/
theorem toNat_shiftLeftOut_snd (a : Byte) : (shiftLeftOut a).2.toNat = a.toNat / 128 := by
  simp only [shiftLeftOut, BitVec.getLsbD, Nat.testBit_eq_decide_div_mod_eq, toNat_decide, Nat.reducePow]
  split <;> omega

/-! ## The instructions -/

/-- Settles O26: a sum or a difference mod 256 and a comparison, the flag written last. -/
theorem addAndSubtractWithFlag : Obligations.AddAndSubtractWithFlag := by
  intro s x y
  refine ⟨⟨s.setRegFlag x (addCarry (s.reg x) (s.reg y)), rfl, rfl, fun r => ?add⟩,
    ⟨s.setRegFlag x (subNoBorrow (s.reg x) (s.reg y)), rfl, rfl, fun r => ?sub⟩,
    ⟨s.setRegFlag x (subNoBorrow (s.reg y) (s.reg x)), rfl, rfl, fun r => ?subn⟩⟩
  case add => rw [State.toNat_reg_setRegFlag, toNat_addCarry_fst, toNat_addCarry_snd]
  case sub => rw [State.toNat_reg_setRegFlag, toNat_subNoBorrow_fst, toNat_subNoBorrow_snd]
  case subn => rw [State.toNat_reg_setRegFlag, toNat_subNoBorrow_fst, toNat_subNoBorrow_snd]

/-- Settles O27: half or double mod 256, and the bit that falls out, the flag written last. -/
theorem shiftsByOne : Obligations.ShiftsByOne := by
  intro s x y
  refine ⟨⟨s.setRegFlag x (shiftRightOut (s.reg x)), rfl, rfl, fun r => ?shr⟩,
    ⟨s.setRegFlag x (shiftLeftOut (s.reg x)), rfl, rfl, fun r => ?shl⟩⟩
  case shr => rw [State.toNat_reg_setRegFlag, toNat_shiftRightOut_fst, toNat_shiftRightOut_snd]
  case shl => rw [State.toNat_reg_setRegFlag, toNat_shiftLeftOut_fst, toNat_shiftLeftOut_snd]

/-- Settles O28: the state after the draw with Vx written; a bit of a bitwise and is a bit of both. -/
theorem randomByteUnderMask : Obligations.RandomByteUnderMask := by
  intro s x nn
  refine ⟨_, execRnd_eq x nn s, rfl, fun r hr => s.reg_setReg_of_ne x _ hr, s.reg_setReg_same x _, fun b hb => ?_⟩
  have hreg : (s.setReg x (Config.randomByte s.draws &&& nn)).reg x = Config.randomByte s.draws &&& nn :=
    s.reg_setReg_same x _
  change ((s.setReg x (Config.randomByte s.draws &&& nn)).reg x).getLsbD b = true at hb
  rw [hreg, BitVec.getLsbD_and, Bool.and_eq_true] at hb
  exact hb.2

/-- Settles O31: a sum mod 4096 fits in I, and so does a glyph's address. -/
theorem indexFromRegister : Obligations.IndexFromRegister := by
  intro s x
  refine ⟨⟨_, execAddI_eq x s, rfl, ?sum, rfl⟩, ⟨s.setI (glyphAddress (s.reg x)), rfl, rfl, toNat_glyphAddress _⟩⟩
  exact Nat.mod_eq_of_lt (by omega)

end Sys2Proof.Machine
end

section
/-! What the transfers between registers and memory do (44_index_memory.md section 2, 20_memory.md sections 1 and 3). -/

namespace Sys2Proof.Machine

variable {s : State} {x r : Reg} {a : Addr}

theorem State.writable_eq_true_iff : s.writable a = true ↔ s.params.fontWritable = true ∨ 0x04F < a.val := by
  simp [State.writable, or_comm]

/-- A byte after an access of `count` bytes from I that stores `bs`. -/
theorem readByte_writeBytes_span_of_writable {count : Nat} {bs : List Byte} (h : s.writable a = true)
    (hlen : bs.length = count) : (s.writeBytes (s.span count) bs).readByte a =
      if s.i.toNat ≤ a.val ∧ a.val < s.i.toNat + count then bs.getD (a.val - s.i.toNat) 0 else s.readByte a := by
  refine (s.readByte_writeBytes_span s.i.toNat count bs a).trans (if_congr ?_ rfl rfl)
  simp only [h, and_true]
  omega

/-! ## FX33 -/

/-- The three digits are below 256. -/
theorem toNat_decimalDigits (v : Byte) :
    ((decimalDigits v).getD 0 0).toNat = v.toNat / 100 ∧ ((decimalDigits v).getD 1 0).toNat = v.toNat / 10 % 10 ∧
      ((decimalDigits v).getD 2 0).toNat = v.toNat % 10 := by
  simp only [decimalDigits, List.getD_cons_zero, List.getD_cons_succ, BitVec.toNat_ofNat]
  omega

/-- The status of a clamped access from an index inside memory (rule R85). -/
theorem clampResult_eq_clampedResult (h : s.i.toNat ≤ 0x0FFF) (op : Word) (count : Nat) :
    clampResult s op count = clampedResult s op count := by
  rw [← State.flagClamp_result_eq, s.flagClamp_result op count h]

/-- Settles O32: a byte of the span takes the digit of its offset, where the write is performed. -/
theorem storeDecimalDigits : Obligations.StoreDecimalDigits := by
  intro s x hi
  refine ⟨_, exec_eq_after (.ldB x) s, rfl, clampResult_eq_clampedResult hi _ 3, fun a => ?_⟩
  rw [State.readByte_after]
  by_cases hfont : s.params.fontWritable = false ∧ a.val ≤ 0x04F
  · rw [if_pos hfont, readByte_memAfter_of_protected (State.writable_eq_false_iff.mpr hfont)]
  · have hw : s.writable a = true := by
      rwa [← State.writable_eq_false_iff, Bool.not_eq_false] at hfont
    have hlen : (decimalDigits (s.reg x)).length = 3 := rfl
    obtain ⟨h0, h1, h2⟩ := toNat_decimalDigits (s.reg x)
    rw [if_neg hfont, memAfter, readByte_writeBytes_span_of_writable hw hlen]
    by_cases hspan : s.i.toNat ≤ a.val ∧ a.val < s.i.toNat + 3
    · rw [if_pos hspan]
      obtain hd | hd | hd : a.val = s.i.toNat ∨ a.val = s.i.toNat + 1 ∨ a.val = s.i.toNat + 2 := by omega
      · rw [if_pos hd, hd, Nat.sub_self, h0]
      · rw [if_neg (by omega), if_pos hd, hd, Nat.add_sub_cancel_left, h1]
      · rw [if_neg (by omega), if_neg (by omega), if_pos hd, hd, Nat.add_sub_cancel_left, h2]
    · rw [if_neg hspan, if_neg (by omega), if_neg (by omega), if_neg (by omega)]

/-! ## FX55 and FX65 -/

theorem getD_map_reg_regsUpTo (h : r.val ≤ x.val) : ((regsUpTo x).map s.reg).getD r.val 0 = s.reg r := by
  have hlen : r.val < (regsUpTo x).length := by rw [regsUpTo_length]; omega
  rw [List.getD_eq_getElem _ _ (by rwa [List.length_map]), List.getElem_map]
  exact congrArg s.reg (Fin.ext (regsUpTo_getElem x r.val hlen))

theorem length_map_readByte_span (count : Nat) :
    ((s.span count).map s.readByte).length = min count (4096 - s.i.toNat) := by
  rw [List.length_map, State.span, spanFrom_length]

/-- The byte read at an offset of the span. -/
theorem getElem?_map_readByte_span {count j : Nat} (hj : j < count) (ha : a.val = s.i.toNat + j) :
    ((s.span count).map s.readByte)[j]? = some (s.readByte a) := by
  have hlen : j < (s.span count).length := by rw [State.span, spanFrom_length]; omega
  rw [List.getElem?_map, List.getElem?_eq_getElem hlen, Option.map_some]
  exact congrArg (some ∘ s.readByte) (Fin.ext ((spanFrom_getElem _ _ j hlen).trans ha.symm))

/-- A register that FX55 stores stands at its offset from I, where the write is performed. -/
theorem readByte_memAfter_storeRegs (hr : r.val ≤ x.val) (ha : a.val = s.i.toNat + r.val) (hw : s.writable a = true) :
    (memAfter s (.storeRegs x)).readByte a = s.reg r := by
  have hlen : ((regsUpTo x).map s.reg).length = x.val + 1 := by rw [List.length_map, regsUpTo_length]
  rw [memAfter, readByte_writeBytes_span_of_writable hw hlen, if_pos (by omega), ha, Nat.add_sub_cancel_left,
    getD_map_reg_regsUpTo hr]

/-- Settles O33: V0 to Vx go to their offsets from I, and every other byte is kept as by every instruction (O50). -/
theorem storeRegistersAtIndex : Obligations.StoreRegistersAtIndex := by
  intro s x hi
  refine ⟨_, exec_eq_after (.storeRegs x) s, rfl, clampResult_eq_clampedResult hi _ _,
    fun r a hr ha hfont => ?stored, fun a hkept => ?kept⟩
  case stored => exact State.readByte_after a ▸ readByte_memAfter_storeRegs hr ha (State.writable_eq_true_iff.mpr hfont)
  case kept =>
    refine otherMemoryIsKept (.storeRegs x) s _ a (exec_eq_after _ s) ((or_assoc.mpr hkept).imp_left fun hout => ?_)
    rw [State.span, mem_spanFrom, storeCount]
    omega

/-- A register that FX65 loads. -/
theorem reg_regsAfter_loadRegs (hr : r.val ≤ x.val) (ha : a.val = s.i.toNat + r.val) :
    (regsAfter s (.loadRegs x)).reg r = s.readByte a := by
  have hlen : r.val < ((s.span (x.val + 1)).map s.readByte).length := by rw [length_map_readByte_span]; omega
  rw [regsAfter, State.reg_setRegs_regsUpTo, if_pos ⟨hr, hlen⟩, List.getD_eq_getElem?_getD,
    getElem?_map_readByte_span (by omega) ha, Option.getD_some]

/-- Settles O34: the byte at offset `r` goes to Vr where there is one, and no other register is loaded. -/
theorem loadRegistersFromIndex : Obligations.LoadRegistersFromIndex := by
  intro s x hi
  refine ⟨_, exec_eq_after (.loadRegs x) s, rfl, clampResult_eq_clampedResult hi _ _,
    fun r a hr ha => reg_regsAfter_loadRegs hr ha, fun r hkept => ?kept⟩
  refine (s.reg_setRegs_regsUpTo x r _).trans (if_neg ?_)
  rw [length_map_readByte_span]
  omega

/-- Settles O35: the byte that FX65 loads is the one that FX55 stored, since I is kept. -/
theorem loadBackWhatWasStored : Obligations.LoadBackWhatWasStored := by
  intro s t u x r clobbered hstore hload hr hi hfont
  rw [eq_after_of_exec hload, eq_after_of_exec hstore]
  obtain ⟨a, ha⟩ : ∃ a : Addr, a.val = s.i.toNat + r.val := ⟨⟨s.i.toNat + r.val, by omega⟩, rfl⟩
  have hloaded : (State.after { s.after (.storeRegs x) with v := clobbered } (.loadRegs x)).reg r =
    (s.after (.storeRegs x)).readByte a := reg_regsAfter_loadRegs hr ha
  rw [hloaded, State.readByte_after]
  exact readByte_memAfter_storeRegs hr ha (State.writable_eq_true_iff.mpr (ha ▸ hfont))

end Sys2Proof.Machine
end

section
/-! What DXYN does, once and twice (41_display.md rules R171 to R173). -/

namespace Sys2Proof.Machine

variable {s : State} {x y : Reg} {n : BitVec 4}

theorem drawnRows_length (s : State) (n : BitVec 4) : (drawnRows s n).length = min n.toNat (4096 - s.i.toNat) :=
  length_map_readByte_span n.toNat

theorem drawnRows_length_le (s : State) (n : BitVec 4) : (drawnRows s n).length ≤ 32 := by
  rw [drawnRows_length]
  omega

/-- Each cell takes the sprite bit over it. -/
theorem cell_after_drw (c : Fin 64) (r : Fin 32) : (s.after (.drw x y n)).cell c r =
    (s.cell c r ^^ spriteBit (s.reg x) (s.reg y) (drawnRows s n) c r) :=
  cell_drawSprite s.fb _ _ _ c r (drawnRows_length_le s n)

theorem State.vf_setFlag_eq_one_iff (p : State) (f : Bool) : (p.setFlag f).reg Reg.vf = 1 ↔ f = true := by
  rw [State.reg_setFlag, if_pos rfl]
  cases f <;> decide

/-- VF is 1 after a draw exactly when a 1 bit lay over a lit cell. -/
theorem vf_after_drw_eq_one_iff : (s.after (.drw x y n)).reg 15 = 1 ↔
    ∃ c r, spriteBit (s.reg x) (s.reg y) (drawnRows s n) c r = true ∧ s.cell c r = true :=
  (s.vf_setFlag_eq_one_iff _).trans (collided_drawSprite s.fb _ _ _ (drawnRows_length_le s n))

/-- A draw writes no register but VF. -/
theorem reg_after_drw {r : Reg} (h : r ≠ 15) : (s.after (.drw x y n)).reg r = s.reg r :=
  reg_regsAfter_of_not_writesReg (i := .drw x y n) (by simpa [writesReg] using h)

/-- Settles O15. -/
theorem drawXorsTheSprite : Obligations.DrawXorsTheSprite := fun s x y n hi =>
  ⟨drawnRows s n, s.after (.drw x y n), exec_eq_after (.drw x y n) s, drawnRows_length s n,
    fun _ _ hj => getElem?_map_readByte_span hj rfl, rfl, cell_after_drw, s.vf_setFlag _, vf_after_drw_eq_one_iff,
    fun _ => reg_after_drw, clampResult_eq_clampedResult hi _ _⟩

/-- Settles O16: a draw that keeps Vx and Vy keeps the sprite, and a bit XORed twice is gone. Where no 1 bit met a lit
cell at the first draw, every cell under a 1 bit is lit at the second. -/
theorem drawingTwiceRestoresTheScreen : Obligations.DrawingTwiceRestoresTheScreen := by
  intro s t u x y n hx hy hst htu
  obtain rfl := eq_after_of_exec hst
  obtain rfl := eq_after_of_exec htu
  have hrows : drawnRows (s.after (.drw x y n)) n = drawnRows s n := rfl
  refine ⟨Grid.ext_cell fun c r => ?_, fun hvf => ?_⟩
  · change State.cell _ c r = s.cell c r
    rw [cell_after_drw, cell_after_drw, reg_after_drw hx, reg_after_drw hy, hrows, Bool.xor_assoc, Bool.xor_self,
      Bool.xor_false]
  · have hdark : ∀ c r, spriteBit (s.reg x) (s.reg y) (drawnRows s n) c r = true → s.cell c r = false := by
      intro c r hbit
      by_contra hlit
      have hone := vf_after_drw_eq_one_iff.mpr ⟨c, r, hbit, Bool.not_eq_false _ ▸ hlit⟩
      rw [hvf] at hone
      exact absurd hone (by decide)
    rw [vf_after_drw_eq_one_iff, reg_after_drw hx, reg_after_drw hy, hrows]
    refine exists_congr fun c => exists_congr fun r => and_iff_left_of_imp fun hbit => ?_
    rw [cell_after_drw, hdark c r hbit, hbit]
    rfl

end Sys2Proof.Machine
end
